-- ==== Sys2Proof/Word.lean ====
section
/-! DEFINITION. The widths of the block: lanes, values, payloads, request and response words (rules R5, R45, R46). -/

namespace Sys2Proof

/-- A byte, a character code, or one lane of a payload: 0..255 (rules R6, R55). -/
abbrev Byte := BitVec 8

/-- A 5-bit value, 0..31, the thing one Base32 symbol stands for (rules R5, R6). -/
abbrev Value := BitVec 5

/-- A request payload: eight 8-bit lanes in one word (rule R45). -/
abbrev Payload := BitVec 64

/-- The request word `req[69:0]` (rule R45). -/
abbrev ReqWord := BitVec 70

/-- The response word `rsp[69:0]` (rule R46). -/
abbrev RspWord := BitVec 70

end Sys2Proof
end

