-- ==== Sys2Proof/Syntax.lean ====
section
/-! DEFINITION. The instructions: the four operations a request word can ask for (rule R47), one constructor per row of
spec/opcode_table.json. -/

namespace Sys2Proof

/-- A request, taken apart into its operation and its two operand fields (rules R45, R47).
`len` is the number of occupied input lanes, 0..15 in a request word, and `data` the payload.
DESIGN CHOICE (log entry 9): `len` is a natural number, as the pseudocode of the rules counts with it;
`Instr.WellFormed` says which numbers a request word can hold. -/
inductive Instr where
  /-- `ENC`, op 0b00: byte chunk to symbol chunk (rule R75). -/
  | enc (len : Nat) (data : Payload)
  /-- `DEC`, op 0b01: symbol chunk to byte chunk (rule R90). -/
  | dec (len : Nat) (data : Payload)
  /-- `SYM`, op 0b10: value to canonical symbol (rule R65). -/
  | sym (len : Nat) (data : Payload)
  /-- `VAL`, op 0b11: character code to value (rule R66). -/
  | val (len : Nat) (data : Payload)
  deriving DecidableEq, Repr

/-- The `len` field of a request (rule R45). -/
def Instr.len : Instr → Nat
  | .enc n _ | .dec n _ | .sym n _ | .val n _ => n

/-- The `data` field of a request (rule R45). -/
def Instr.data : Instr → Payload
  | .enc _ d | .dec _ d | .sym _ d | .val _ d => d

end Sys2Proof
end

