-- ==== Sys2Proof/WellFormed.lean ====
section
/-! DEFINITION. Which instructions a request word can hold. Every request word is a request (rule R56), so this is
about the width of the `len` field and nothing else; a length that is not legal for its operation is still
well-formed, and is answered with an error (rule R48). -/

namespace Sys2Proof

/-- The `len` field is 4 bits wide (rule R45). -/
abbrev Instr.WellFormed (i : Instr) : Prop := i.len < 16

/-- The lengths RB32's domains give each operation, the empty chunk among them (rule R48): the lengths that are neither
a bad request nor the one-symbol chunk. -/
def Instr.LegalLen : Instr → Bool
  | .enc n _ => n ≤ 5
  | .dec n _ => n ≤ 8 && n != 1
  | .sym n _ => n == 1
  | .val n _ => n == 1

end Sys2Proof
end

