-- ==== Sys2Proof/Decode.lean ====
section
/-! DEFINITION. Request words to instructions and back (rules R45, R47, R49), and the 18-hexadecimal-digit form of a
word as nine bytes (rule R57). Decoding a 70-bit request word is total and rejects nothing: "all four codes are
used, so no `op` value is illegal" (rule R47) and "there are no reserved bits" (rule R45). What can be rejected is a
byte string that is no 70-bit word. -/

namespace Sys2Proof

/-- The instruction a request word asks for: `op` is bits 69:68, `len` bits 67:64, `data` bits 63:0
(rules R45, R47). -/
def decodeReq (q : ReqWord) : Instr :=
  let op := q.extractLsb' 68 2
  let len := (q.extractLsb' 64 4).toNat
  let data := q.extractLsb' 0 64
  if op = 0b00 then .enc len data
  else if op = 0b01 then .dec len data
  else if op = 0b10 then .sym len data
  else .val len data

/-- The operation code of an instruction (rule R47). -/
def Instr.op : Instr → BitVec 2
  | .enc _ _ => 0b00
  | .dec _ _ => 0b01
  | .sym _ _ => 0b10
  | .val _ _ => 0b11

/-- The request word with the three given fields (rule R45). -/
def reqWord (op : BitVec 2) (len : BitVec 4) (data : Payload) : ReqWord :=
  op ++ len ++ data

/-- The request word of a well-formed instruction (rules R45, R47). -/
def encode (i : Instr) : ReqWord :=
  reqWord i.op (BitVec.ofNat 4 i.len) i.data

/-- Why a byte string is no request word. -/
inductive DecodeError where
  /-- A request word is 70 bits, "right-justified in 72 bits" (rule R57): nine bytes, and this string has `n`. -/
  | wrongLength (n : Nat)
  /-- The two bits above the 70-bit word must be 0, "so the first digit is `0`, `1`, `2` or `3`" (rule R57). -/
  | aboveTheWord (first : Byte)
  deriving DecidableEq, Repr

/-- The number a byte string stands for, its first byte most significant. -/
def bytesToNat (bs : List Byte) : Nat :=
  bs.foldl (fun n b => n * 256 + b.toNat) 0

/-- Decode the nine-byte form of a request word (rule R57), rejecting by name what is none.
DEDUCED (log entry 13), safe: two hexadecimal digits a byte, in printing order. -/
def decodeBytes (bs : List Byte) : Except DecodeError Instr :=
  if bs.length ≠ 9 then .error (.wrongLength bs.length)
  else if 64 ≤ (bs.headD 0).toNat then .error (.aboveTheWord (bs.headD 0))
  else .ok (decodeReq (BitVec.ofNat 70 (bytesToNat bs)))

/-- The nine bytes of a word's printed form (rule R57): byte `k` is bits 71-8k : 64-8k of the word right-justified
in 72 bits. -/
def wordBytes (q : ReqWord) : List Byte :=
  (List.range 9).map fun k => (q.setWidth 72).extractLsb' (64 - 8 * k) 8

/-- The instruction read from a request whose bits are `w`, numbered as spec/opcode_table.json numbers them: a request is
ONE word of 70 bits and bit 0 is its least significant bit (rules R6, R45). The table's row is 70 bits, 72 in whole
bytes; a word with one of the two bits above the 70 set is refused (log entry 10), and bits above `nbits` are 0. -/
def decodeTableWord (nbits w : Nat) : Option Instr :=
  let v := w % 2 ^ nbits
  if v < 2 ^ 70 then some (decodeReq (BitVec.ofNat 70 v)) else none

end Sys2Proof
end

