-- ==== Sys2Proof/Config.lean ====
section
/-! DEFINITION. The free values: what the spec leaves unspecified and a model "gives each a free draw" (rule R21).
The block takes no configuration input and has no optional feature (rule R5), so nothing else stands here.
None of these constants has a body: no proof can learn a value of it, so a theorem that mentions one holds for every value. -/

namespace Sys2Proof

/-- DESIGN CHOICE (log entry 2), unsafe only in that one draw number gives one value in every run. What lands in lane `lane` of `OUT` when the spec leaves that lane
unspecified (rule R21 a), at the `draw`-th draw. -/
opaque Config.freeLane (draw lane : Nat) : Byte

/-- DESIGN CHOICE (log entry 3). `STATUS` after a reset (rules R21 b, R22), at the `draw`-th draw. -/
opaque Config.freeStatus (draw : Nat) : BitVec 2

/-- DESIGN CHOICE (log entry 3). `OLEN` after a reset (rules R21 b, R22), at the `draw`-th draw. -/
opaque Config.freeOlen (draw : Nat) : BitVec 4

/-- DESIGN CHOICE (log entry 4), safe. What the host's `read`-th read of `rsp` sees in an unspecified lane: rule R21
says two reads of it need not agree. -/
opaque Config.readLane (read lane : Nat) : Byte

end Sys2Proof
end

