-- ==== Sys2Proof/Machine/State.lean ====
section
/-! DEFINITION. The state of the block: the four response registers (rule R10), and two fields of the model's own, the
host's coming inputs and the count of free draws. The two tables are constants and no fields (rule R15), and the
block has no other state (rules R16 to R19, R23 to R25). -/

namespace Sys2Proof.Machine

/-- What the host drives on the input ports in one step (rule R145). `clk` is left out: "no rule depends on it"
(rule R157, log entry 6). -/
structure Pins where
  /-- `rst`, reset. -/
  rst : Bool
  /-- `req_valid`: the host presents a request this step. -/
  reqValid : Bool
  /-- `req`, the request word; read only when `req_valid` is high. -/
  req : ReqWord
  deriving DecidableEq, Repr

/-- What one step is asked to do: the three cases of the step relation of rule R145. -/
inductive Event where
  /-- Reset (rule R146). -/
  | reset
  /-- The host presents the request word `q`. -/
  | request (q : ReqWord)
  /-- No request, no reset. -/
  | idle
  deriving DecidableEq, Repr

/-- The failures of a request: RB32's two kinds and the spec's own third (rules R6, R125). -/
inductive ErrKind where
  /-- A character outside the decode table (rule R126). -/
  | invalidCharacter
  /-- A symbol chunk of exactly one symbol (rule R127). -/
  | malformedChunk
  /-- A request outside the domain of its operation (rule R128). -/
  | badRequest
  deriving DecidableEq, Repr

/-- The result of an operation, `Ok(s)` or `Err(e)` (rule R6). -/
inductive Result where
  | ok (s : List Byte)
  | err (e : ErrKind)
  deriving DecidableEq, Repr

/-- The machine's state. -/
structure State where
  /-- `RVALID`, 1 bit: the response registers hold the response of a completed request (rule R10). -/
  rvalid : Bool
  /-- `STATUS`, 2 bits: the status code of the last request (rules R10, R18). -/
  status : BitVec 2
  /-- `OLEN`, 4 bits: the number of meaningful lanes of `OUT` (rules R10, R20). -/
  olen : BitVec 4
  /-- `OUT`, 64 bits as its eight lanes, lane 0 first (rules R10, R20, R33). DESIGN CHOICE (log entry 5), safe: kept by
  lane, since "a payload is always eight 8-bit lanes, and no operation reads a lane pair" (rule R37). -/
  out : Vector Byte 8
  /-- The model's own: how many free draws have been taken (rule R21, log entry 2). -/
  draws : Nat
  /-- The model's own: what the host drives on the ports at each coming step, the next step first; when the list
  is empty the host drives nothing (rules R23, R145, log entry 1). -/
  pins : List Pins
  deriving DecidableEq, Repr

/-- Why the machine stops with a fault. The BLOCK never does: "the block never hangs" (rule R156), and `step` answers a next
state from every state. -/
inductive Fault where
  /-- Raised by `readRsp` alone: the host reads `rsp` while `rsp_valid` is 0, which "a model should treat ... as a fault
  of the host rather than give it a value" (rule R149). Safe: the model stops the host where hardware would answer some bits. -/
  | readBeforeResponse
  deriving DecidableEq, Repr

/-- Why an instruction has no meaning in the model. -/
inductive Refusal where
  /-- The instruction is not modelled yet; its name in spec/opcode_table.json. Raised by no arm of `exec`: all four operations
  have their meaning. Safe. -/
  | notModelled (mnemonic : String)
  deriving DecidableEq, Repr

/-- The block right after reset (rule R22): `RVALID` is 0 and `STATUS`, `OLEN`, `OUT` are unspecified, so they are the
free values of draw 0, which nothing constrains. DESIGN CHOICE (log entry 3). The host drives nothing yet. -/
def State.reset : State where
  rvalid := false
  status := Config.freeStatus 0
  olen := Config.freeOlen 0
  out := Vector.ofFn fun i => Config.freeLane 0 i.val
  draws := 1
  pins := []

end Sys2Proof.Machine
end

