-- ==== Sys2Proof/Machine/Flags.lean ====
section
/-! DEFINITION. The one condition code, `STATUS`: its codes and how a result sets `STATUS` and `OLEN`
(rules R18, R20, R125). -/

namespace Sys2Proof.Machine

/-- `STATUS` 0, OK (rule R125). -/
def statusOk : BitVec 2 := 0b00

/-- The status code of an error kind (rule R125): 1 INVALID_CHARACTER, 2 MALFORMED_CHUNK, 3 BAD_REQUEST. -/
def errCode : ErrKind → BitVec 2
  | .invalidCharacter => 0b01
  | .malformedChunk => 0b10
  | .badRequest => 0b11

/-- The error kind a status code names, none for OK (rule R125). -/
def codeErr (st : BitVec 2) : Option ErrKind :=
  if st = 0b00 then none
  else if st = 0b01 then some .invalidCharacter
  else if st = 0b10 then some .malformedChunk
  else some .badRequest

/-- The value a result gives `STATUS` (rules R47, R130). -/
def resultStatus : Result → BitVec 2
  | .ok _ => statusOk
  | .err e => errCode e

/-- The meaningful lanes of a result: its sequence, and none on an error, "no partial result is returned"
(rules R20, R130). -/
def resultItems : Result → List Byte
  | .ok s => s
  | .err _ => []

end Sys2Proof.Machine
end

