-- ==== Sys2Proof/Machine/Operands.lean ====
section
/-! DEFINITION. Operand and result assembly: lanes of a payload (rules R6, R33, R50 to R54). -/

namespace Sys2Proof.Machine

/-- `lane(w, i)`, bits 63-8i : 56-8i, for `i` in 0..7; lane 0 is the most significant (rules R6, R33). -/
def lane (w : Payload) (i : Nat) : Byte :=
  w.extractLsb' (56 - 8 * i) 8

/-- The chunk in the first `n` lanes of a payload, first item in lane 0; the other lanes are not read (rules R50, R51). -/
def lanes (w : Payload) (n : Nat) : List Byte :=
  (List.range n).map (lane w)

/-- The payload that holds the chunk `xs`, left-justified from lane 0, every other lane 0x00 (rules R38, R57). -/
def payloadOf (xs : List Byte) : Payload :=
  xs.getD 0 0 ++ xs.getD 1 0 ++ xs.getD 2 0 ++ xs.getD 3 0 ++
    xs.getD 4 0 ++ xs.getD 5 0 ++ xs.getD 6 0 ++ xs.getD 7 0

/-- The eight lanes of `OUT` that hold the result `xs`: lane `i` is `xs[i]`, and a lane at or beyond the result's end is
unspecified, the free value of draw `draw` (rules R20, R21, R54). -/
def fillLanes (xs : List Byte) (draw : Nat) : Vector Byte 8 :=
  Vector.ofFn fun i => xs.getD i.val (Config.freeLane draw i.val)

/-- Eight lanes as one 64-bit word, lane 0 in bits 63:56 (rules R6, R46). -/
def lanesWord (v : Vector Byte 8) : Payload :=
  v[0] ++ v[1] ++ v[2] ++ v[3] ++ v[4] ++ v[5] ++ v[6] ++ v[7]

end Sys2Proof.Machine
end

