-- ==== Sys2Proof/Machine/Ops.lean ====
section
/-! DEFINITION. The named operations over the response registers: writing a response, taking an error, reset. Each
writes all four registers at once (rule R41), and no other operation writes one. -/

namespace Sys2Proof.Machine

/-- Write a response (rule R47): `RVALID <- 1`, the status code, `OLEN` the number of items, the items in lanes 0 onward
of `OUT`, every other lane a fresh free draw (rule R21). -/
def writeResponse (code : BitVec 2) (items : List Byte) (s : State) : State :=
  { s with
    rvalid := true
    status := code
    olen := BitVec.ofNat 4 items.length
    out := fillLanes items s.draws
    draws := s.draws + 1 }

/-- Take an error, the one way a request fails (rule R130): `RVALID <- 1`, `STATUS <- code(e)`, `OLEN <- 0`, `OUT`
unspecified. "No state is saved, no mode changes, ... control goes nowhere", and there is no return from it
(rule R133). -/
def raiseError (e : ErrKind) (s : State) : State :=
  writeResponse (errCode e) [] s

/-- Write the response of a completed request (rule R47). -/
def respond (r : Result) (s : State) : State :=
  match r with
  | .ok items => writeResponse statusOk items s
  | .err e => raiseError e s

/-- Reset (rule R146): `RVALID` is 0, and `STATUS`, `OLEN` and `OUT` are unspecified, each a fresh free draw. -/
def resetBlock (s : State) : State :=
  { s with
    rvalid := false
    status := Config.freeStatus s.draws
    olen := Config.freeOlen s.draws
    out := fillLanes [] s.draws
    draws := s.draws + 1 }

end Sys2Proof.Machine
end

