-- ==== Sys2Proof/Machine/Tables.lean ====
section
/-! DEFINITION. The two constant tables of the block, `ENC_ROM` and `DEC_ROM` (rules R12, R13, R15): definitions and no
fields of the state, the same before, during and after reset. The character codes are ASCII (log entry 7). -/

namespace Sys2Proof.Machine

/-- The 32 entries of `ENC_ROM` in the order of their values (rule R12). -/
def encRomTable : List Byte :=
  [0x30, 0x31, 0x32, 0x33, 0x34, 0x35, 0x36, 0x37] ++
  [0x38, 0x39, 0x61, 0x62, 0x63, 0x64, 0x65, 0x66] ++
  [0x67, 0x68, 0x6a, 0x6b, 0x6d, 0x6e, 0x70, 0x71] ++
  [0x72, 0x73, 0x74, 0x76, 0x77, 0x78, 0x79, 0x7a]

/-- `ENC_ROM[v]`, Layer F's `SymOf`: the character code of the canonical symbol of `v` (rule R12). A 5-bit index is in
range by construction (rule R32). -/
def encRom (v : Value) : Byte :=
  encRomTable.getD v.toNat 0

/-- A row of `DEC_ROM` without a valid code. -/
def decRomNoRow : List (Option Value) := List.replicate 16 none

/-- Row 3_ of the grid of rule R13: the codes 0x30 to 0x3f. -/
def decRomRow3 : List (Option Value) :=
  [some 0, some 1, some 2, some 3, some 4, some 5, some 6, some 7,
   some 8, some 9, none, none, none, some 0, none, none]

/-- Row 4_ of the grid of rule R13: the codes 0x40 to 0x4f. -/
def decRomRow4 : List (Option Value) :=
  [none, some 10, some 11, some 12, some 13, some 14, some 15, some 16,
   some 17, some 1, some 18, some 19, some 1, some 20, some 21, some 0]

/-- Row 5_ of the grid of rule R13: the codes 0x50 to 0x5f. -/
def decRomRow5 : List (Option Value) :=
  [some 22, some 23, some 24, some 25, some 26, none, some 27, some 28,
   some 29, some 30, some 31, none, none, none, none, none]

/-- Row 6_ of the grid of rule R13: the codes 0x60 to 0x6f. -/
def decRomRow6 : List (Option Value) :=
  [none, some 10, some 11, some 12, some 13, some 14, some 15, some 16,
   some 17, some 1, some 18, some 19, some 1, some 20, some 21, some 0]

/-- Row 7_ of the grid of rule R13: the codes 0x70 to 0x7f. -/
def decRomRow7 : List (Option Value) :=
  [some 22, some 23, some 24, some 25, some 26, none, some 27, some 28,
   some 29, some 30, some 31, none, none, none, none, none]

/-- The grid of rule R13: sixteen rows of sixteen codes. Rows 0_ to 2_ and 8_ to f_ hold no valid code. -/
def decRomTable : List (Option Value) :=
  decRomNoRow ++ decRomNoRow ++ decRomNoRow ++ decRomRow3 ++ decRomRow4 ++ decRomRow5 ++ decRomRow6 ++ decRomRow7 ++
    decRomNoRow ++ decRomNoRow ++ decRomNoRow ++ decRomNoRow ++ decRomNoRow ++ decRomNoRow ++ decRomNoRow ++ decRomNoRow

/-- `DEC_ROM[c]`, Layer F's `ValOf`: `some v` for `Val(v)`, `none` for `Invalid` (rule R13). An invalid entry has no
value at all (93_implementation_defined U7). -/
def decRom (c : Byte) : Option Value :=
  decRomTable.getD c.toNat none

end Sys2Proof.Machine
end

