-- ==== Sys2Proof/Machine/ChunkDecode.lean ====
section
/-! DEFINITION. The chunk decoder, operation `DEC` (rules R90 to R104). -/

namespace Sys2Proof.Machine

/-- `floor(5*M/8)` (rule R96). -/
def decLength (M : Nat) : Nat := 5 * M / 8

/-- The values of the input symbols in order, or `none` as soon as one is not in the decode table, "fail immediately"
(rules R90, R93). -/
def lookupAll : List Byte → Option (List Value)
  | [] => some []
  | c :: cs =>
    match decRom c with
    | none => none
    | some v => (lookupAll cs).map (v :: ·)

/-- The groups of the chunk, 0 in the positions the chunk does not fill (rules R90, R94). -/
def padGroups (g : List Value) : List Value :=
  g ++ List.replicate (8 - g.length) 0

/-- The 40-bit big-endian integer of eight groups (rules R36, R90, `N`). -/
def packGroups (g : List Value) : Nat :=
  (g.getD 0 0).toNat * 32 ^ 7 + (g.getD 1 0).toNat * 32 ^ 6 + (g.getD 2 0).toNat * 32 ^ 5 +
    (g.getD 3 0).toNat * 32 ^ 4 + (g.getD 4 0).toNat * 32 ^ 3 + (g.getD 5 0).toNat * 32 ^ 2 +
    (g.getD 6 0).toNat * 32 + (g.getD 7 0).toNat

/-- Output byte `j` of the integer, most significant byte first (rules R36, R90). -/
def byteAt (N j : Nat) : Byte :=
  BitVec.ofNat 8 ((N >>> (32 - 8 * j)) &&& 0xFF)

/-- The bytes of a chunk of groups: the `floor(5*M/8)` most significant bytes (rules R90, R96). The residual bits below
them are dropped unread (rule R97). -/
def unpackBytes (g : List Value) : List Byte :=
  (List.range (decLength g.length)).map (byteAt (packGroups (padGroups g)))

/-- Layer F's `DecChunk`, for a chunk of 1 to 8 character codes (rules R90, R91): the one-symbol test stands before any
lookup (rules R92, R129). -/
def decChunk (S : List Byte) : Result :=
  if S.length = 1 then .err .malformedChunk
  else
    match lookupAll S with
    | none => .err .invalidCharacter
    | some g => .ok (unpackBytes g)

/-- `ExecDEC` (rule R90): a length of 9 or more is a bad request, the empty chunk gives the empty result (rule R99). -/
def decResult (len : Nat) (data : Payload) : Result :=
  if 9 ≤ len then .err .badRequest
  else if len = 0 then .ok []
  else decChunk (lanes data len)

/-- `DEC` (rule R90). -/
def execDec (len : Nat) (data : Payload) (s : State) : Host.Outcome State Fault Refusal :=
  .next (respond (decResult len data) s)

end Sys2Proof.Machine
end

