-- ==== Sys2Proof/Machine/ChunkEncode.lean ====
section
/-! DEFINITION. The chunk encoder, operation `ENC` (rules R75 to R83). -/

namespace Sys2Proof.Machine

/-- `ceil(8*L/5)`, "computed as `floor((8*L + 4) / 5)`" (rules R77, R80). -/
def encLength (L : Nat) : Nat := (8 * L + 4) / 5

/-- The chunk right-padded with zero bytes to 5 bytes (rule R75, `P`). -/
def padBytes (B : List Byte) : List Byte :=
  B ++ List.replicate (5 - B.length) 0

/-- The 40-bit big-endian integer of five bytes (rules R34, R75, `N`). -/
def packBytes (P : List Byte) : Nat :=
  (P.getD 0 0).toNat * 2 ^ 32 + (P.getD 1 0).toNat * 2 ^ 24 + (P.getD 2 0).toNat * 2 ^ 16 +
    (P.getD 3 0).toNat * 2 ^ 8 + (P.getD 4 0).toNat

/-- The 5-bit group `k` of the integer, most significant group first (rules R35, R75, `G[k]`). -/
def groupAt (N k : Nat) : Value :=
  BitVec.ofNat 5 ((N >>> (35 - 5 * k)) &&& 0x1F)

/-- All eight symbols of the padded chunk (rule R75, `Y`); those beyond the output length are rule R78's trailing symbols. -/
def encSymbols (B : List Byte) : List Byte :=
  (List.range 8).map fun k => encRom (groupAt (packBytes (padBytes B)) k)

/-- Layer F's `EncChunk`, for a chunk of 1 to 5 bytes (rules R75, R76). -/
def encChunk (B : List Byte) : List Byte :=
  (encSymbols B).take (encLength B.length)

/-- `ExecENC` (rule R75): a length of 6 or more is a bad request, the empty chunk gives the empty result (rule R79). -/
def encResult (len : Nat) (data : Payload) : Result :=
  if 6 ≤ len then .err .badRequest
  else if len = 0 then .ok []
  else .ok (encChunk (lanes data len))

/-- `ENC` (rule R75). -/
def execEnc (len : Nat) (data : Payload) (s : State) : Host.Outcome State Fault Refusal :=
  .next (respond (encResult len data) s)

end Sys2Proof.Machine
end

