-- ==== Sys2Proof/Machine/Lookup.lean ====
section
/-! DEFINITION. The alphabet lookup operations `SYM` and `VAL` (rules R65, R66). -/

namespace Sys2Proof.Machine

/-- `ExecSYM` (rule R65): the length test, then the range test on the 8-bit lane, then one read of `ENC_ROM`. -/
def symResult (len : Nat) (data : Payload) : Result :=
  if len ≠ 1 then .err .badRequest
  else if 32 ≤ (lane data 0).toNat then .err .badRequest
  else .ok [encRom ((lane data 0).setWidth 5)]

/-- `SYM` (rule R65). -/
def execSym (len : Nat) (data : Payload) (s : State) : Host.Outcome State Fault Refusal :=
  .next (respond (symResult len data) s)

/-- `ExecVAL` (rule R66): the length test, then one read of `DEC_ROM`; the value is zero-extended to a lane (rule R54). -/
def valResult (len : Nat) (data : Payload) : Result :=
  if len ≠ 1 then .err .badRequest
  else
    match decRom (lane data 0) with
    | some v => .ok [v.setWidth 8]
    | none => .err .invalidCharacter

/-- `VAL` (rule R66). -/
def execVal (len : Nat) (data : Payload) (s : State) : Host.Outcome State Fault Refusal :=
  .next (respond (valResult len data) s)

end Sys2Proof.Machine
end

