-- ==== Sys2Proof/Machine/Dispatch.lean ====
section
/-! DEFINITION. One arm per operation (rule R47). -/

namespace Sys2Proof.Machine

def exec (i : Instr) (s : State) : Host.Outcome State Fault Refusal :=
  match i with
  | .enc len data => Sys2Proof.Machine.execEnc len data s
  | .dec len data => Sys2Proof.Machine.execDec len data s
  | .sym len data => Sys2Proof.Machine.execSym len data s
  | .val len data => Sys2Proof.Machine.execVal len data s

end Sys2Proof.Machine
end

