-- ==== Sys2Proof/Machine/Fetch.lean ====
section
/-! DEFINITION. Where a step takes its request from: the host's input ports (rules R17, R145). The block fetches
nothing by an address; "it executes the one request the host presents, then waits for the next". -/

namespace Sys2Proof.Machine

/-- What the ports ask for in one step: reset beats a simultaneous request, which is dropped (rule R145). -/
def pinsEvent (p : Pins) : Event :=
  if p.rst then .reset
  else if p.reqValid then .request p.req
  else .idle

/-- What the next step is asked to do, and the state once the ports of this step are used up. A host that drives nothing
leaves the block idle (rule R145, log entry 1). -/
def nextEvent (s : State) : Event × State :=
  match s.pins with
  | [] => (.idle, s)
  | p :: rest => (pinsEvent p, { s with pins := rest })

/-- The host presents the request word `q` at the next step, before whatever else it was to drive (rule R7). -/
def presentRequest (q : ReqWord) (s : State) : State :=
  { s with pins := ⟨false, true, q⟩ :: s.pins }

end Sys2Proof.Machine
end

