-- ==== Sys2Proof/Machine/Step.lean ====
section
/-! DEFINITION. One step of the block (rule R145). -/

namespace Sys2Proof.Machine

/-- The step relation of rule R145: reset, the request the host presents, or nothing. -/
def step (s : State) : Host.Outcome State Fault Refusal :=
  match nextEvent s with
  | (.reset, t) => .next (resetBlock t)
  | (.request q, t) => exec (decodeReq q) t
  | (.idle, t) => .next t

/-- `s` with the request whose table bits are `w` on the ports at the next step, in the place of whatever the host was
to drive there (rules R17, R145, log entry 11). Bits of `w` at or above `nbits` are 0; the port is 70 wires wide. -/
def State.withFetchWord (s : State) (nbits w : Nat) : State :=
  { s with pins := ⟨false, true, BitVec.ofNat 70 (w % 2 ^ nbits)⟩ :: s.pins.tail }

end Sys2Proof.Machine
end

