-- ==== Sys2Proof/Machine/Layout.lean ====
section
/-! DEFINITION. The second formulations the spec gives of the two packings: groups by repeated division (rule R81), the
bit-level layouts (rules R82, R101), residual bits (rule R97). `exec` uses none of them; claims compare it with them. -/

namespace Sys2Proof.Machine

/-- `t` rounds of the right-to-left formulation of rule R81: the remainder by 32 is the next group to the left. -/
def divisionGroups : Nat → Nat → List Value → List Value
  | 0, _, acc => acc
  | t + 1, r, acc => divisionGroups t (r / 32) (BitVec.ofNat 5 (r % 32) :: acc)

/-- The eight groups of the 40-bit integer by "repeated floor-division by 32 applied right-to-left" (rule R81). -/
def groupsByDivision (N : Nat) : List Value :=
  divisionGroups 8 N []

/-- The table of rule R82: group `k` of a chunk of bytes; a byte beyond the chunk is zero. -/
def encGroupLayout (B : List Byte) (k : Nat) : Value :=
  let b := fun j => B.getD j 0
  match k with
  | 0 => (b 0).extractLsb' 3 5
  | 1 => (b 0).extractLsb' 0 3 ++ (b 1).extractLsb' 6 2
  | 2 => (b 1).extractLsb' 1 5
  | 3 => (b 1).extractLsb' 0 1 ++ (b 2).extractLsb' 4 4
  | 4 => (b 2).extractLsb' 0 4 ++ (b 3).extractLsb' 7 1
  | 5 => (b 3).extractLsb' 2 5
  | 6 => (b 3).extractLsb' 0 2 ++ (b 4).extractLsb' 5 3
  | _ => (b 4).extractLsb' 0 5

/-- The table of rule R101: output byte `j` of a chunk of groups. -/
def decByteLayout (G : List Value) (j : Nat) : Byte :=
  let g := fun i => G.getD i 0
  match j with
  | 0 => g 0 ++ (g 1).extractLsb' 2 3
  | 1 => (g 1).extractLsb' 0 2 ++ g 2 ++ (g 3).extractLsb' 4 1
  | 2 => (g 3).extractLsb' 0 4 ++ (g 4).extractLsb' 1 4
  | 3 => (g 4).extractLsb' 0 1 ++ g 5 ++ (g 6).extractLsb' 3 2
  | _ => (g 6).extractLsb' 0 3 ++ g 7

/-- The residual bits of a chunk of groups as a number: the low `5*M mod 8` bits of its significant part, which belong to
no output byte (rules R6, R97). -/
def residualBits (g : List Value) : Nat :=
  packGroups (padGroups g) / 2 ^ (40 - 5 * g.length) % 2 ^ (5 * g.length % 8)

/-- The canonical form of a valid character code: the canonical symbol of its value (rules R14 d, R67). -/
def canonicalForm (c : Byte) : Option Byte :=
  (decRom c).map encRom

end Sys2Proof.Machine
end

