-- ==== Sys2Proof/Machine/Request.lean ====
section
/-! DEFINITION. The total function `Exec` of a request (rule R47): the result that `exec` writes to the response registers. -/

namespace Sys2Proof.Machine

/-- The result of a request as the four `Exec...` functions give it (rule R47). It reads the request and the tables
alone (rule R11). -/
def requestResult : Instr → Result
  | .enc len data => encResult len data
  | .dec len data => decResult len data
  | .sym len data => symResult len data
  | .val len data => valResult len data

/-- `Exec(q)` for a request word (rules R8, R47). -/
def execWord (q : ReqWord) : Result :=
  requestResult (decodeReq q)

end Sys2Proof.Machine
end

