-- ==== Sys2Proof/Machine/Port.lean ====
section
/-! DEFINITION. The output ports `rsp_valid` and `rsp`, as the host reads them (rules R46, R145, R149, R150). A read is no
step and changes nothing (rule R40): it is a function of the state. -/

namespace Sys2Proof.Machine

/-- The response word, by its fields (rule R46). -/
structure Response where
  status : BitVec 2
  olen : BitVec 4
  /-- The output payload, lane 0 first. -/
  out : Vector Byte 8
  deriving DecidableEq, Repr

/-- The 70-bit word `{STATUS, OLEN, OUT}` (rules R10, R46). -/
def Response.word (r : Response) : RspWord :=
  r.status ++ r.olen ++ lanesWord r.out

/-- What the host may consume of a response: the first `OLEN` lanes (rule R150). -/
def Response.items (r : Response) : List Byte :=
  r.out.toList.take r.olen.toNat

/-- `rsp_valid` (rule R145). -/
def rspValid (s : State) : Bool := s.rvalid

/-- The host's `read`-th read of `rsp`. While `rsp_valid` is 0 it "has read no value", a fault of the host (rule R149); else
it sees `STATUS`, `OLEN` and the first `OLEN` lanes of `OUT`, and in every other lane a draw of its own, since two reads
of an unspecified lane need not agree (rule R21, log entry 4). -/
def readRsp (read : Nat) (s : State) : Except Fault Response :=
  if s.rvalid then
    .ok { status := s.status
          olen := s.olen
          out := Vector.ofFn fun i => if i.val < s.olen.toNat then s.out[i.val] else Config.readLane read i.val }
  else .error .readBeforeResponse

end Sys2Proof.Machine
end

