-- ==== Sys2Proof/Machine/Spelling.lean ====
section
/-! DEFINITION. The notation for requests and for printed words (rule R57): which request a spelling denotes, and the
18 hexadecimal digits of a request or a response. -/

namespace Sys2Proof.Machine

/-- The five spellings of a request (rule R57), as the data they carry. -/
inductive Spelling where
  /-- `ENC b0 b1 ...`, up to 5 bytes. -/
  | enc (bs : List Byte)
  /-- `DEC "c0c1..."`, up to 8 character codes. -/
  | dec (cs : List Byte)
  /-- `SYM v`. -/
  | sym (v : Value)
  /-- `VAL 'c'` or `VAL 0xhh`. -/
  | val (c : Byte)
  /-- `REQ op, len, 0xdddddddddddddddd`: the raw fields. -/
  | req (op : BitVec 2) (len : BitVec 4) (data : Payload)
  deriving DecidableEq, Repr

/-- The lengths rule R57 allows a spelling. -/
def Spelling.wf : Spelling → Bool
  | .enc bs => bs.length ≤ 5
  | .dec cs => cs.length ≤ 8
  | .sym _ | .val _ | .req _ _ _ => true

/-- The request word a spelling denotes (rule R57): the items in the lanes below `len`, the other lanes 0x00. -/
def Spelling.word : Spelling → ReqWord
  | .enc bs => reqWord 0b00 (BitVec.ofNat 4 bs.length) (payloadOf bs)
  | .dec cs => reqWord 0b01 (BitVec.ofNat 4 cs.length) (payloadOf cs)
  | .sym v => reqWord 0b10 1 (payloadOf [v.setWidth 8])
  | .val c => reqWord 0b11 1 (payloadOf [c])
  | .req op len data => reqWord op len data

/-- One hexadecimal digit. -/
def hexDigit (n : Nat) : Char :=
  "0123456789abcdef".toList.getD n '?'

/-- The two digits of a byte. -/
def hexByte (b : Byte) : List Char :=
  [hexDigit (b.toNat / 16), hexDigit (b.toNat % 16)]

/-- A request word as 18 hexadecimal digits, the word right-justified in 72 bits (rule R57). -/
def printWord (q : ReqWord) : List Char :=
  (wordBytes q).flatMap hexByte

/-- A response as 18 digits, "with `--` for a lane that is unspecified" (rule R57). -/
def printResponse (r : Response) : List Char :=
  [hexDigit r.status.toNat, hexDigit r.olen.toNat] ++
    (List.range 8).flatMap fun i =>
      if i < r.olen.toNat then hexByte (r.out.toList.getD i 0) else ['-', '-']

end Sys2Proof.Machine
end

