-- ==== Sys2Proof/Machine/Stream.lean ====
section
/-! DEFINITION. The host contract (rules R110 to R120): how a driver cuts a byte or symbol stream into requests, runs them
one at a time on the block and joins the outputs. None of this is an operation of the block. -/

namespace Sys2Proof.Machine

/-- The chunks of a sequence: chunk `t` is the items `n*t` to `min(n*t + n, |xs|) - 1`, for `ceil(|xs|/n)` chunks
(rules R110, R111). The empty sequence has none (rule R113). -/
def chunksOf (n : Nat) (xs : List Byte) : List (List Byte) :=
  (List.range ((xs.length + (n - 1)) / n)).map fun t => (xs.drop (n * t)).take n

/-- The chunks a host forms from a source that answers its reads with `reads`, `held` being what it has read and not
yet sent: full chunks as soon as they are there, a short chunk only when the source has ended (rule R116). -/
def chunksOfReads (n : Nat) (held : List Byte) : List (List Byte) → List (List Byte)
  | [] => chunksOf n held
  | r :: reads =>
    let whole := (held ++ r).length / n * n
    chunksOf n ((held ++ r).take whole) ++ chunksOfReads n ((held ++ r).drop whole) reads

/-- The `ENC` request of a byte chunk (rules R50, R57). -/
def encRequest (B : List Byte) : Instr := .enc B.length (payloadOf B)

/-- The `DEC` request of a symbol chunk (rules R51, R57). -/
def decRequest (S : List Byte) : Instr := .dec S.length (payloadOf S)

/-- The `VAL` request of a character code (rules R53, R57). -/
def valRequest (c : Byte) : Instr := .val 1 (payloadOf [c])

/-- One transaction: the host presents the request and the block takes one step (rules R6, R42). -/
def transact (i : Instr) (s : State) : Host.Outcome State Fault Refusal :=
  step (presentRequest (encode i) s)

/-- How a host's run ended (rules R115, R158). -/
inductive StreamEnd where
  /-- Every response had status 0. -/
  | done
  /-- A response had another status, and the host stopped there. -/
  | failed (e : ErrKind)
  /-- The host read `rsp` before there was a response. -/
  | hostFault (r : Fault)
  /-- The block refused the request. -/
  | blockRefused (r : Refusal)
  deriving DecidableEq, Repr

/-- What a host's run leaves: the output joined so far, how the run ended, and the block. -/
structure StreamRun where
  out : List Byte
  ending : StreamEnd
  block : State
  deriving DecidableEq, Repr

/-- Send requests in order, one transaction at a time, reading each response before the next request (rules R112, R148),
joining its first `OLEN` lanes to the output (rule R150), and stopping at the first status that is not 0 (rules R115,
R152). What was delivered before stays delivered. -/
def driveRequests : List Instr → State → List Byte → StreamRun
  | [], s, acc => ⟨acc, .done, s⟩
  | i :: rest, s, acc =>
    match transact i s with
    | .fault f => ⟨acc, .hostFault f, s⟩
    | .refused r => ⟨acc, .blockRefused r, s⟩
    | .next t =>
      match readRsp t.draws t with
      | .error f => ⟨acc, .hostFault f, t⟩
      | .ok rsp =>
        match codeErr rsp.status with
        | some e => ⟨acc, .failed e, t⟩
        | none => driveRequests rest t (acc ++ rsp.items)

/-- `ENCODE_BYTES B` (rule R110). -/
def runEncodeBytes (B : List Byte) (s : State) : StreamRun :=
  driveRequests ((chunksOf 5 B).map encRequest) s []

/-- `DECODE_STRING T` (rule R111). A one-symbol tail is sent to the block, which answers with the error (rule R114,
log entry 12). -/
def runDecodeString (T : List Byte) (s : State) : StreamRun :=
  driveRequests ((chunksOf 8 T).map decRequest) s []

/-- `ISVALID T` (rule R117): one `VAL` a character, up to the first that fails. -/
def runIsValid (T : List Byte) (s : State) : StreamRun :=
  driveRequests (T.map valRequest) s []

/-- The answer of `ISVALID`: "`true` when every response has status 0, `false` as soon as one has status 1"
(rule R117). -/
def isValidAnswer (r : StreamRun) : Bool :=
  r.ending == .done

/-- What a whole-buffer function returns (rules R111, R115): the joined output, or the error and no bytes. A run that ended in
another way has no such result. -/
def wholeResult (r : StreamRun) : Option Result :=
  match r.ending with
  | .done => some (.ok r.out)
  | .failed e => some (.err e)
  | .hostFault _ | .blockRefused _ => none

end Sys2Proof.Machine
end

