-- ==== Sys2Proof/Safety.lean ====
section
/-! DEFINITION. What counts as a sound response and a safe host, in the terms the claims use. -/

namespace Sys2Proof.Safety

open Sys2Proof.Machine

/-- What the response registers always satisfy once there is a response: `OLEN` never exceeds 8 (rule R46), and it is 0
whenever `STATUS` is not 0 (rule R20); a length of 6 is no result of any operation (rules R77, R96). Nothing is
promised while `RVALID` is 0 (rule R21 b). -/
abbrev ResponseSound (s : State) : Prop :=
  s.rvalid = true → s.olen.toNat ≤ 8 ∧ s.olen.toNat ≠ 6 ∧ (s.status ≠ statusOk → s.olen = 0)

/-- Two states show the host the same response (rules R20, R21): the same `RVALID`, and where it is 1 the same
status, the same `OLEN` and the same first `OLEN` lanes. -/
abbrev SameResponse (s t : State) : Prop :=
  s.rvalid = t.rvalid ∧
    (s.rvalid = true →
      s.status = t.status ∧ s.olen = t.olen ∧ ∀ k : Fin 8, k.val < s.olen.toNat → s.out[k] = t.out[k])

/-- The block holds the response `Ok(items)` (rule R20). -/
abbrev HoldsOk (items : List Byte) (s : State) : Prop :=
  s.rvalid = true ∧ s.status = statusOk ∧ s.olen.toNat = items.length ∧
    ∀ k : Fin 8, k.val < items.length → s.out[k] = items.getD k.val 0

/-- The block holds the error response of `e` (rule R130). -/
abbrev HoldsErr (e : ErrKind) (s : State) : Prop :=
  s.rvalid = true ∧ s.status = errCode e ∧ s.olen = 0

/-- The lane may be consumed by the host: there is a response and the lane is below `OLEN` (rules R149, R150). -/
abbrev MayConsume (s : State) (k : Nat) : Prop :=
  s.rvalid = true ∧ k < s.olen.toNat

/-- Short chunks only at the end of a stream (rules R116, R151): every chunk has between 1 and `n` items, and every chunk
but the last has `n`. -/
def ShortOnlyLast (n : Nat) : List (List Byte) → Bool
  | [] => true
  | [c] => 1 ≤ c.length && c.length ≤ n
  | c :: d :: rest => c.length == n && ShortOnlyLast n (d :: rest)

/-- The two payloads agree on their first `n` lanes (rules R83, R104). -/
abbrev AgreeBelow (n : Nat) (d d' : Payload) : Prop :=
  ∀ k : Nat, k < n → lane d k = lane d' k

/-- Nothing but the response registers and the count of draws is changed by a transaction (rules R10, R130): the host's
coming inputs stand. -/
abbrev OnlyResponseChanged (s t : State) : Prop :=
  t.pins = s.pins ∧ t.draws = s.draws + 1

end Sys2Proof.Safety
end

