-- ==== Sys2Proof/Certificates/Slice0/Obligations.lean ====
section
/-! DEFINITION. The statements for the provers. A free value that a statement names is a constant without a body, so the
statement holds whatever it is. -/

open Sys2Proof Sys2Proof.Machine Sys2Proof.Safety

/-! Request words -/

/-- Rules R45, R47 with the words of R57, R65, R66, R90 and two raw words of 95_test_vectors: a sanity check of which bit is which. -/
def Obligations.KnownRequestWordsDecode : Prop :=
  decodeReq 0x0568656c6c6f000000#70 = .enc 5 0x68656c6c6f000000#64 ∧
    decodeReq 0x1864316a7072763366#70 = .dec 8 0x64316a7072763366#64 ∧
    decodeReq 0x210d00000000000000#70 = .sym 1 0x0d00000000000000#64 ∧
    decodeReq 0x314c00000000000000#70 = .val 1 0x4c00000000000000#64 ∧
    decodeReq 0x0f0000000000000000#70 = .enc 15 0#64 ∧
    decodeReq 0x126430757520ff002d#70 = .dec 2 0x6430757520ff002d#64

/-- Rules R45, R47: no bit of a well-formed request's fields is lost in its word. -/
def Obligations.EncodedRequestDecodesBack : Prop :=
  ∀ i : Instr, i.WellFormed → decodeReq (encode i) = i

/-- Rules R45, R49, R56: every request word is the word of the one well-formed instruction it decodes to. -/
def Obligations.EveryRequestWordHasOneMeaning : Prop :=
  ∀ q : ReqWord,
    (decodeReq q).WellFormed ∧ encode (decodeReq q) = q ∧
      ∀ i : Instr, i.WellFormed → encode i = q → i = decodeReq q

/-- Rule R57 and log entry 13: the nine-byte form of a word decodes to what the word decodes to, and a byte string that is
no 70-bit word is rejected by name. -/
def Obligations.NineByteFormDecodes : Prop :=
  (∀ q : ReqWord, decodeBytes (wordBytes q) = .ok (decodeReq q)) ∧
    (∀ bs : List Byte, bs.length ≠ 9 → decodeBytes bs = .error (.wrongLength bs.length)) ∧
    (∀ bs : List Byte, bs.length = 9 → 0x40 ≤ (bs.headD 0).toNat →
      decodeBytes bs = .error (.aboveTheWord (bs.headD 0))) ∧
    (∀ bs : List Byte, bs.length = 9 → (bs.headD 0).toNat < 0x40 →
      ∃ q : ReqWord, wordBytes q = bs ∧ decodeBytes bs = .ok (decodeReq q))

/-- Rules R33, R38, R57: a chunk of at most eight items stands left-justified in its payload, the other lanes 0x00. -/
def Obligations.PayloadHoldsChunkFromLaneZero : Prop :=
  ∀ xs : List Byte, xs.length ≤ 8 →
    lanes (payloadOf xs) xs.length = xs ∧
      ∀ k : Nat, xs.length ≤ k → k < 8 → lane (payloadOf xs) k = 0x00

/-- Rule R57: what request each spelling denotes. -/
def Obligations.SpellingsDenoteRequests : Prop :=
  (∀ bs : List Byte, Spelling.wf (.enc bs) = true → decodeReq (Spelling.word (.enc bs)) = .enc bs.length (payloadOf bs)) ∧
    (∀ cs : List Byte, Spelling.wf (.dec cs) = true → decodeReq (Spelling.word (.dec cs)) = .dec cs.length (payloadOf cs)) ∧
    (∀ v : Value, decodeReq (Spelling.word (.sym v)) = .sym 1 (payloadOf [v.setWidth 8])) ∧
    (∀ c : Byte, decodeReq (Spelling.word (.val c)) = .val 1 (payloadOf [c])) ∧
    (∀ (op : BitVec 2) (len : BitVec 4) (data : Payload),
      (decodeReq (Spelling.word (.req op len data))).op = op ∧
        (decodeReq (Spelling.word (.req op len data))).len = len.toNat ∧
        (decodeReq (Spelling.word (.req op len data))).data = data)

/-! The step -/

/-- Rule R145: a step in which the host presents a request runs the instruction the word decodes to, on the state whose ports
of this step are used up; and the host's placing of a word (log entry 11) presents exactly it. -/
def Obligations.StepRunsThePresentedRequest : Prop :=
  (∀ (s : State) (q : ReqWord) (rest : List Pins), s.pins = ⟨false, true, q⟩ :: rest →
      step s = exec (decodeReq q) { s with pins := rest }) ∧
    (∀ (s : State) (w : Nat), w < 2 ^ 70 →
      ∃ i : Instr, decodeTableWord 72 w = some i ∧ i.WellFormed ∧
        step (s.withFetchWord 72 w) = exec i { s with pins := s.pins.tail })

/-- Rule R145, `step(σ, idle) = σ`: with no request and no reset nothing changes; the model's list of inputs moves on
(log entry 1). -/
def Obligations.IdleStepChangesNothing : Prop :=
  (∀ s : State, s.pins = [] → step s = .next s) ∧
    (∀ (s : State) (q : ReqWord) (rest : List Pins), s.pins = ⟨false, false, q⟩ :: rest →
      step s = .next { s with pins := rest })

/-- Rules R145, R146: reset, alone or beside a request, sets `RVALID` to 0, the request is dropped, and the first request
after it is answered like any other. Nothing is said of `STATUS`, `OLEN`, `OUT`, which the rule leaves unspecified. -/
def Obligations.ResetBeatsARequest : Prop :=
  ∀ (s : State) (present : Bool) (q : ReqWord) (rest : List Pins), s.pins = ⟨true, present, q⟩ :: rest →
    ∃ t : State, step s = .next t ∧ t.rvalid = false ∧ t.pins = rest ∧
      ∀ (i : Instr) (s' : State),
        ∃ u u' : State, exec i t = .next u ∧ exec i s' = .next u' ∧ SameResponse u u'

/-- Rule R22 for `RVALID`; the other three registers hold the free values of draw 0 by the model's choice (log entry 3), and
the host drives nothing yet (log entry 1). -/
def Obligations.ResetStateHoldsNoResponse : Prop :=
  State.reset.rvalid = false ∧ State.reset.pins = [] ∧
    State.reset.status = Config.freeStatus 0 ∧ State.reset.olen = Config.freeOlen 0 ∧
    (∀ k : Fin 8, State.reset.out[k] = Config.freeLane 0 k.val) ∧
    ∀ n : Nat, readRsp n State.reset = .error .readBeforeResponse

/-- Rules R56, R156: every step from every state is answered; the block neither faults nor refuses. -/
def Obligations.EveryStepIsAnswered : Prop :=
  ∀ s : State, ∃ t : State, step s = .next t

/-- Rules R8, R11, R47: the response to a request word is `Exec` of that word, whatever the state. -/
def Obligations.ResponseDependsOnTheRequestAlone : Prop :=
  ∀ (q : ReqWord) (s s' : State),
    ∃ t t' : State, step (presentRequest q s) = .next t ∧ step (presentRequest q s') = .next t' ∧
      SameResponse t t' ∧
      (∀ items : List Byte, execWord q = .ok items → HoldsOk items t) ∧
      (∀ e : ErrKind, execWord q = .err e → HoldsErr e t)

/-- Rules R10, R15, R24: an operation writes the response registers and nothing else. -/
def Obligations.OperationsWriteOnlyTheResponse : Prop :=
  ∀ (i : Instr) (s t : State), exec i s = .next t →
    t.rvalid = true ∧ OnlyResponseChanged s t

/-- Rule R21 (a) by the model's free values (log entry 2): after any request, a lane at or beyond `OLEN` holds a free draw. -/
def Obligations.UnspecifiedLanesAreFreeDraws : Prop :=
  ∀ (i : Instr) (s : State), ∃ t : State, exec i s = .next t ∧
    ∀ k : Fin 8, t.olen.toNat ≤ k.val → t.out[k] = Config.freeLane s.draws k.val

/-- Rules R20, R46, R77, R96: the response registers stay sound from every sound state, whatever the host drives. -/
def Obligations.StepKeepsResponseSound : Prop :=
  ∀ s t : State, ResponseSound s → step s = .next t → ResponseSound t

/-- Rules R22, R46: right after reset the response registers are sound. -/
def Obligations.ResetResponseIsSound : Prop :=
  ResponseSound State.reset

/-! ENC -/

/-- Rules R75, R79: the bad lengths, the empty chunk, and for 1 to 5 bytes the leading `ceil(8*len/5)` groups of the padded
big-endian integer as canonical symbols. -/
def Obligations.EncPacksBytesIntoSymbols : Prop :=
  ∀ (len : Nat) (data : Payload) (s : State), ∃ t : State, exec (.enc len data) s = .next t ∧
    (6 ≤ len → HoldsErr .badRequest t) ∧
    (len = 0 → HoldsOk [] t) ∧
    (1 ≤ len → len ≤ 5 → ∀ p : Nat → Nat,
      (∀ j : Nat, p j = if j < len then (lane data j).toNat else 0) →
        t.rvalid = true ∧ t.status = 0 ∧ t.olen.toNat = (8 * len + 4) / 5 ∧
          ∀ k : Fin 8, k.val < t.olen.toNat →
            t.out[k] = encRom (BitVec.ofNat 5
              ((p 0 * 2 ^ 32 + p 1 * 2 ^ 24 + p 2 * 2 ^ 16 + p 3 * 2 ^ 8 + p 4) / 2 ^ (35 - 5 * k.val) % 32)))

/-- 41_chunk_encode R82, which the spec marks as derived from R75, its table: which bits of which bytes make each symbol. -/
def Obligations.EncFollowsTheBitLayout : Prop :=
  ∀ (len : Nat) (data : Payload) (s : State), 1 ≤ len → len ≤ 5 →
    ∃ t : State, exec (.enc len data) s = .next t ∧ t.rvalid = true ∧ t.status = statusOk ∧
      (∀ k : Fin 8, k.val < t.olen.toNat ↔
        [1, 1, 2, 2, 3, 4, 4, 5].getD k.val 0 ≤ len) ∧
      ∀ k : Fin 8, k.val < t.olen.toNat → t.out[k] = encRom (encGroupLayout (lanes data len) k.val)

/-- Rule R77: the table of output lengths, with the zero pad bits in the low end of the last symbol. -/
def Obligations.EncOutputLengthTable : Prop :=
  ∀ (len : Nat) (data : Payload) (s : State), len ≤ 5 →
    ∃ t : State, exec (.enc len data) s = .next t ∧ t.rvalid = true ∧ t.status = statusOk ∧
      t.olen.toNat = [0, 2, 4, 5, 7, 8].getD len 0 ∧
      t.olen.toNat = (8 * len + 4) / 5 ∧
      5 * t.olen.toNat = 8 * len + [0, 2, 4, 1, 3, 0].getD len 0 ∧
      ∀ k : Fin 8, k.val + 1 = t.olen.toNat →
        ∃ v : Value, t.out[k] = encRom v ∧ v.toNat % 2 ^ (5 * t.olen.toNat - 8 * len) = 0

/-- Rule R83: lanes at and beyond `len` have no effect on the result.
That the next states agree in the lanes R21 leaves unspecified too is no rule: it is the model's choice of log entry 2. -/
def Obligations.EncIgnoresUnusedLanes : Prop :=
  ∀ (len : Nat) (d d' : Payload), len ≤ 5 → AgreeBelow len d d' →
    encResult len d = encResult len d' ∧ ∀ s : State, exec (.enc len d) s = exec (.enc len d') s

/-- 41_chunk_encode R78, which the spec marks as derived from R75 and R12: the symbols beyond the output length are all `0`, and they are no part of the result. -/
def Obligations.EncTrailingSymbolsAreZero : Prop :=
  ∀ B : List Byte, 1 ≤ B.length → B.length ≤ 5 →
    (∀ k : Nat, encLength B.length ≤ k → k < 8 →
      groupAt (packBytes (padBytes B)) k = 0 ∧ (encSymbols B)[k]? = some 0x30) ∧
      (encChunk B).length = encLength B.length ∧ encChunk B = (encSymbols B).take (encLength B.length)

/-- Rule R81: the two formulations of the groups agree, and the base-32 digits of the integer are unique. -/
def Obligations.GroupFormulationsAgree : Prop :=
  ∀ N : Nat, N < 2 ^ 40 →
    groupsByDivision N = (List.range 8).map (groupAt N) ∧
      N / 32 ^ 8 = 0 ∧
      packGroups (groupsByDivision N) = N ∧
      ∀ g : List Value, g.length = 8 → packGroups g = N → g = groupsByDivision N

/-- Rules R80, R100: the two packings place their items in disjoint bit ranges of 40 bits; nothing carries. -/
def Obligations.PackingsDoNotCarry : Prop :=
  (∀ P : List Byte, P.length = 5 →
      packBytes P < 2 ^ 40 ∧ ∀ j : Nat, j < 5 → byteAt (packBytes P) j = P.getD j 0) ∧
    (∀ g : List Value, g.length = 8 →
      packGroups g < 2 ^ 40 ∧ ∀ k : Nat, k < 8 → groupAt (packGroups g) k = g.getD k 0)

/-- 41_chunk_encode R82, which the spec marks as derived from R75, its last sentence: a prefix of the bytes fixes a prefix of the symbols. -/
def Obligations.BytePrefixFixesSymbolPrefix : Prop :=
  ∀ (B C : List Byte) (j : Nat), 1 ≤ B.length → B.length ≤ 5 → 1 ≤ C.length → C.length ≤ 5 →
    j ≤ B.length → j ≤ C.length → B.take j = C.take j →
      (encChunk B).take (8 * j / 5) = (encChunk C).take (8 * j / 5) ∧
        8 * j / 5 ≤ (encChunk B).length

/-! DEC -/

/-- Rules R90, R99, R129: the three errors in their order, the empty chunk, and for a chunk of valid symbols the leading
`floor(5*len/8)` bytes of the 40-bit sum. -/
def Obligations.DecPacksSymbolsIntoBytes : Prop :=
  ∀ (len : Nat) (data : Payload) (s : State), ∃ t : State, exec (.dec len data) s = .next t ∧
    (9 ≤ len → HoldsErr .badRequest t) ∧
    (len = 0 → HoldsOk [] t) ∧
    (len = 1 → HoldsErr .malformedChunk t) ∧
    (2 ≤ len → len ≤ 8 → (∃ i : Nat, i < len ∧ decRom (lane data i) = none) → HoldsErr .invalidCharacter t) ∧
    (2 ≤ len → len ≤ 8 → ∀ g : Nat → Value,
      (∀ i : Nat, i < len → decRom (lane data i) = some (g i)) → (∀ i : Nat, len ≤ i → g i = 0) →
        t.rvalid = true ∧ t.status = 0 ∧ t.olen.toNat = 5 * len / 8 ∧
          ∀ j : Fin 8, j.val < t.olen.toNat →
            t.out[j] = BitVec.ofNat 8
              (((g 0).toNat * 32 ^ 7 + (g 1).toNat * 32 ^ 6 + (g 2).toNat * 32 ^ 5 + (g 3).toNat * 32 ^ 4 +
                (g 4).toNat * 32 ^ 3 + (g 5).toNat * 32 ^ 2 + (g 6).toNat * 32 + (g 7).toNat) /
                  2 ^ (32 - 8 * j.val) % 256))

/-- 42_chunk_decode R101, which the spec marks as derived from R90, its table: which bits of which groups make each byte, and when the byte is present. -/
def Obligations.DecFollowsTheBitLayout : Prop :=
  ∀ (len : Nat) (data : Payload) (s : State) (G : List Value), 2 ≤ len → len ≤ 8 →
    lookupAll (lanes data len) = some G →
      ∃ t : State, exec (.dec len data) s = .next t ∧ t.rvalid = true ∧ t.status = statusOk ∧
        (∀ j : Fin 8, j.val < t.olen.toNat ↔ [2, 4, 5, 7, 8, 9, 9, 9].getD j.val 0 ≤ len) ∧
        ∀ j : Fin 8, j.val < t.olen.toNat → t.out[j] = decByteLayout G j.val

/-- Rule R96: the table of output lengths and of residual bits, the error at length 1 included. -/
def Obligations.DecOutputLengthTable : Prop :=
  ∀ (len : Nat) (data : Payload) (s : State), len ≤ 8 →
    (∀ i : Nat, i < len → decRom (lane data i) ≠ none) →
      ∃ t : State, exec (.dec len data) s = .next t ∧ t.rvalid = true ∧
        (len = 1 → t.status = errCode .malformedChunk ∧ t.olen = 0) ∧
        (len ≠ 1 → t.status = statusOk ∧ t.olen.toNat = 5 * len / 8 ∧
          t.olen.toNat = [0, 0, 1, 1, 2, 3, 3, 4, 5].getD len 0 ∧
          5 * len = 8 * t.olen.toNat + [0, 0, 2, 7, 4, 1, 6, 3, 0].getD len 0)

/-- Rule R93: one character outside the table fails the whole chunk, wherever it stands; and which characters those are. -/
def Obligations.InvalidSymbolFailsTheChunk : Prop :=
  (∀ (len : Nat) (data : Payload) (s : State) (i : Nat), 2 ≤ len → len ≤ 8 → i < len →
      decRom (lane data i) = none →
        ∃ t : State, exec (.dec len data) s = .next t ∧ HoldsErr .invalidCharacter t) ∧
    ([0x75, 0x55, 0x20, 0x2d, 0x00].all fun c => decRom c = none) = true ∧
    (∀ c : Byte, 0x80 ≤ c.toNat → decRom c = none) ∧
    ((List.range 256).filter fun n => decRom (BitVec.ofNat 8 n) = none).length = 195

/-- 42_chunk_decode R94, which the spec marks as derived from R90: the positions a chunk does not fill hold the value 0, and no byte of the output depends on them. -/
def Obligations.PadFillReachesNoByte : Prop :=
  (∀ (g : List Value) (i : Nat), g.length ≤ i → i < 8 → (padGroups g)[i]? = some 0) ∧
    (decRom 0x3d = some 0) ∧
    (∀ (g f f' : List Value) (j : Nat), g.length + f.length = 8 → g.length + f'.length = 8 →
      j < decLength g.length → byteAt (packGroups (g ++ f)) j = byteAt (packGroups (g ++ f')) j)

/-- Rule R95: `=` is read like `0`, `O` and `o` at any position, and counts toward the length.
That the next states agree in the lanes R21 leaves unspecified too is no rule: it is the model's choice of log entry 2. -/
def Obligations.ExplicitPadReadsAsZero : Prop :=
  (∀ (len : Nat) (d d' : Payload),
      (∀ k : Nat, k < len →
        lane d' k = lane d k ∨
          (lane d k = 0x3d ∧ (lane d' k = 0x30 ∨ lane d' k = 0x4f ∨ lane d' k = 0x6f))) →
        ∀ s : State, exec (.dec len d) s = exec (.dec len d') s) ∧
    decResult 8 0x64313d3d3d3d3d3d#64 = .ok [0x68, 0x40, 0x00, 0x00, 0x00] ∧
    decResult 2 0x643d000000000000#64 = .ok [0x68] ∧
    decResult 2 0x6430000000000000#64 = .ok [0x68] ∧
    decResult 1 0x3d00000000000000#64 = .err .malformedChunk

/-- Rule R97: two chunks of valid symbols of one length whose packed integers agree above the residual bits give the same
response; the four chunks that differ from `d0` in them decode alike, and only `d0` is an encoding of the byte.
That the next states agree in the lanes R21 leaves unspecified too is no rule: it is the model's choice of log entry 2. -/
def Obligations.ResidualBitsAreDropped : Prop :=
  (∀ (len : Nat) (d d' : Payload) (G G' : List Value), 2 ≤ len → len ≤ 8 →
      lookupAll (lanes d len) = some G → lookupAll (lanes d' len) = some G' →
      packGroups (padGroups G) / 2 ^ (40 - 8 * (5 * len / 8)) =
        packGroups (padGroups G') / 2 ^ (40 - 8 * (5 * len / 8)) →
        ∀ s : State, exec (.dec len d) s = exec (.dec len d') s ∧
          ∃ t : State, exec (.dec len d) s = .next t ∧ t.status = statusOk) ∧
    (∀ c : Byte, c = 0x30 ∨ c = 0x31 ∨ c = 0x32 ∨ c = 0x33 → decChunk [0x64, c] = .ok [0x68]) ∧
    encChunk [0x68] = [0x64, 0x30]

/-- Rule R98: chunks of 3 and of 6 symbols are accepted, give what the chunk one symbol shorter gives, and their last
symbol must still be valid. -/
def Obligations.LengthsThreeAndSixAreAccepted : Prop :=
  ∀ (len : Nat) (data : Payload) (s : State), len = 3 ∨ len = 6 →
    (∀ i : Nat, i + 1 < len → decRom (lane data i) ≠ none) →
      ∃ t t' : State, exec (.dec len data) s = .next t ∧ exec (.dec (len - 1) data) s = .next t' ∧
        (decRom (lane data (len - 1)) ≠ none →
          t.rvalid = true ∧ t.status = statusOk ∧ t.olen.toNat = len / 2 ∧ SameResponse t t') ∧
        (decRom (lane data (len - 1)) = none → HoldsErr .invalidCharacter t)

/-- Rule R104: lanes at and beyond `len` have no effect on the result and are not validated.
That the next states agree in the lanes R21 leaves unspecified too is no rule: it is the model's choice of log entry 2. -/
def Obligations.DecIgnoresUnusedLanes : Prop :=
  ∀ (len : Nat) (d d' : Payload), len ≤ 8 → AgreeBelow len d d' →
    decResult len d = decResult len d' ∧ ∀ s : State, exec (.dec len d) s = exec (.dec len d') s

/-- 42_chunk_decode R103, which the spec marks as derived from R90: a symbol may be replaced by any other with
the same value.
That the next states agree in the lanes R21 leaves unspecified too is no rule: it is the model's choice of log entry 2. -/
def Obligations.SynonymsDecodeAlike : Prop :=
  ∀ (len : Nat) (d d' : Payload),
    (∀ k : Nat, k < len → decRom (lane d k) = decRom (lane d' k)) →
      ∀ s : State, exec (.dec len d) s = exec (.dec len d') s

/-- Rule R68: `DEC` accepts a symbol exactly when `VAL` does, and uses the value `VAL` returns. -/
def Obligations.DecReadsSymbolsAsValDoes : Prop :=
  ∀ (len : Nat) (data : Payload) (s : State), 2 ≤ len → len ≤ 8 →
    ∃ t : State, exec (.dec len data) s = .next t ∧
      (t.status = statusOk ↔
        ∀ k : Nat, k < len →
          ∃ u : State, exec (.val 1 (payloadOf [lane data k])) s = .next u ∧ u.status = statusOk) ∧
      ∀ vs : List Value, vs.length = len →
        (∀ k : Nat, k < len →
          ∃ u : State, exec (.val 1 (payloadOf [lane data k])) s = .next u ∧
            HoldsOk [(vs.getD k 0).setWidth 8] u) →
          HoldsOk (unpackBytes vs) t

/-! ENC and DEC together -/

/-- 42_chunk_decode R102, which the spec marks as derived from R75, R90 and R14, Layer F: decoding undoes encoding; and encoding undoes decoding exactly on chunks of canonical symbols, of an
encoder's length, with zero residual bits. -/
def Obligations.ChunkRoundTrip : Prop :=
  (∀ B : List Byte, 1 ≤ B.length → B.length ≤ 5 → decChunk (encChunk B) = .ok B) ∧
    (∀ S B : List Byte, 1 ≤ S.length → S.length ≤ 8 → decChunk S = .ok B →
      (encChunk B = S ↔
        (∀ c ∈ S, c ∈ encRomTable) ∧ S.length ∈ [2, 4, 5, 7, 8] ∧
          ∃ G : List Value, lookupAll S = some G ∧ residualBits G = 0))

/-- Rules R83, R102, R104 on the block: `DEC` of the very payload an `ENC` left in `OUT`, unspecified lanes and all, returns the
bytes. -/
def Obligations.BlockRoundTrip : Prop :=
  ∀ (len : Nat) (data : Payload) (s : State), len ≤ 5 →
    ∃ t u : State, exec (.enc len data) s = .next t ∧
      exec (.dec t.olen.toNat (lanesWord t.out)) t = .next u ∧ HoldsOk (lanes data len) u

/-! SYM and VAL -/

/-- Rule R65: the bad requests, and the canonical symbol of every value; the values around the letters that are left
out. -/
def Obligations.SymLooksUpTheSymbol : Prop :=
  (∀ (len : Nat) (data : Payload) (s : State), ∃ t : State, exec (.sym len data) s = .next t ∧
      (len ≠ 1 → HoldsErr .badRequest t) ∧
      (len = 1 → 32 ≤ (lane data 0).toNat → HoldsErr .badRequest t) ∧
      (len = 1 → ∀ v : Value, (lane data 0).toNat = v.toNat → HoldsOk [encRom v] t)) ∧
    [0, 1, 13, 17, 18, 19, 20, 21, 22, 26, 27, 31].map encRom =
      [0x30, 0x31, 0x64, 0x68, 0x6a, 0x6b, 0x6d, 0x6e, 0x70, 0x74, 0x76, 0x7a]

/-- Rule R66: the bad requests, the value of every valid code, and the error on every other. -/
def Obligations.ValLooksUpTheValue : Prop :=
  (∀ (len : Nat) (data : Payload) (s : State), ∃ t : State, exec (.val len data) s = .next t ∧
      (len ≠ 1 → HoldsErr .badRequest t) ∧
      (len = 1 → decRom (lane data 0) = none → HoldsErr .invalidCharacter t) ∧
      (len = 1 → ∀ v : Value, decRom (lane data 0) = some v → HoldsOk [BitVec.ofNat 8 v.toNat] t)) ∧
    [0x3d, 0x4f, 0x6f, 0x49, 0x69, 0x4c, 0x6c, 0x41, 0x61].map decRom =
      [some 0, some 0, some 0, some 1, some 1, some 1, some 1, some 10, some 10] ∧
    (∀ c : Byte, 0x41 ≤ c.toNat → c.toNat ≤ 0x5a → decRom c = decRom (c + 0x20)) ∧
    (∀ c : Byte, c ∈ [0x75, 0x55, 0x20, 0x2d, 0x00, 0x7f] ∨ 0x80 ≤ c.toNat → decRom c = none)

/-- 40_alphabet_lookup R67, which the spec marks as derived from R14: `VAL` after `SYM` is the identity on values; `SYM` after `VAL` gives the canonical form, which is the code itself
exactly for the canonical symbols. -/
def Obligations.ValUndoesSym : Prop :=
  (∀ (v : Value) (s : State), ∃ t u : State,
      exec (.sym 1 (payloadOf [v.setWidth 8])) s = .next t ∧
        exec (.val 1 (payloadOf [t.out[0]])) t = .next u ∧ HoldsOk [v.setWidth 8] u) ∧
    (∀ (c : Byte) (v : Value) (s : State), decRom c = some v → ∃ t u : State,
      exec (.val 1 (payloadOf [c])) s = .next t ∧ t.status = statusOk ∧
        exec (.sym 1 (payloadOf [t.out[0]])) t = .next u ∧ HoldsOk [encRom v] u ∧
        (encRom v = c ↔ c ∈ encRomTable)) ∧
    (∀ c : Byte, c = 0x3d ∨ c = 0x4f ∨ c = 0x6f → canonicalForm c = some 0x30) ∧
    (∀ c : Byte, c = 0x49 ∨ c = 0x69 ∨ c = 0x4c ∨ c = 0x6c → canonicalForm c = some 0x31) ∧
    (∀ c : Byte, 0x41 ≤ c.toNat → c.toNat ≤ 0x5a → c ||| 0x20 ∈ encRomTable → canonicalForm c = some (c ||| 0x20))

/-! The tables -/

/-- Rules R12, R13, with the codes the spec marks as general knowledge (log entry 7): `ENC_ROM` is the alphabet in order, and `DEC_ROM` holds the listed codes for each value and no other. -/
def Obligations.TablesHoldTheAlphabet : Prop :=
  (List.range 32).map (fun v => encRom (BitVec.ofNat 5 v)) =
      "0123456789abcdefghjkmnpqrstvwxyz".toList.map (fun ch => BitVec.ofNat 8 ch.toNat) ∧
    ((List.range 256).filter fun c => decRom (BitVec.ofNat 8 c) = some 0) = [0x30, 0x3d, 0x4f, 0x6f] ∧
    ((List.range 256).filter fun c => decRom (BitVec.ofNat 8 c) = some 1) = [0x31, 0x49, 0x4c, 0x69, 0x6c] ∧
    (∀ v : Fin 32, 2 ≤ v.val → v.val ≤ 9 →
      ((List.range 256).filter fun c => decRom (BitVec.ofNat 8 c) = some (BitVec.ofNat 5 v.val)) = [0x30 + v.val]) ∧
    (∀ v : Fin 32, 10 ≤ v.val →
      ((List.range 256).filter fun c => decRom (BitVec.ofNat 8 c) = some (BitVec.ofNat 5 v.val)) =
        [(encRom (BitVec.ofNat 5 v.val)).toNat - 0x20, (encRom (BitVec.ofNat 5 v.val)).toNat])

/-- 10_state R14, which the spec marks as derived from R12 and R13: its facts (a) to (f). -/
def Obligations.TableFacts : Prop :=
  (∀ v w : Value, encRom v = encRom w → v = w) ∧
    (∀ v : Value, decRom (encRom v) = some v) ∧
    (((List.range 256).filter fun c => (decRom (BitVec.ofNat 8 c)).isSome).length = 61 ∧
      ((List.range 32).map fun v =>
          ((List.range 256).filter fun c => decRom (BitVec.ofNat 8 c) = some (BitVec.ofNat 5 v)).length) =
        [4, 5] ++ List.replicate 8 1 ++ List.replicate 22 2) ∧
    (∀ (c : Byte) (v : Value), decRom c = some v →
      canonicalForm c = some (encRom v) ∧
        (encRom v = c ↔ (0x30 ≤ c.toNat ∧ c.toNat ≤ 0x39) ∨
          (0x61 ≤ c.toNat ∧ c.toNat ≤ 0x7a ∧ c ∉ [0x69, 0x6c, 0x6f, 0x75]))) ∧
    (∀ c : Byte, 0x40 ≤ c.toNat → c.toNat ≤ 0x5f → decRom c = decRom (c + 0x20)) ∧
    (∀ c : Byte, (0x41 ≤ c.toNat ∧ c.toNat ≤ 0x5a) ∨ (0x61 ≤ c.toNat ∧ c.toNat ≤ 0x7a) →
      (decRom c = none ↔ c = 0x75 ∨ c = 0x55))

/-! Errors -/

/-- Rule R125: the four codes, and which operation can answer with which. -/
def Obligations.StatusCodesPerOperation : Prop :=
  (statusOk = 0 ∧ errCode .invalidCharacter = 1 ∧ errCode .malformedChunk = 2 ∧ errCode .badRequest = 3) ∧
    ∀ (len : Nat) (data : Payload) (s : State), ∃ t u v w : State,
      exec (.enc len data) s = .next t ∧ exec (.dec len data) s = .next u ∧
        exec (.sym len data) s = .next v ∧ exec (.val len data) s = .next w ∧
        (t.status = 0 ∨ t.status = 3) ∧ (v.status = 0 ∨ v.status = 3) ∧ w.status ≠ 2

/-- Rule R126: exactly when `InvalidCharacter` is raised. -/
def Obligations.InvalidCharacterRaisers : Prop :=
  (∀ (i : Instr) (s : State), ∃ t : State, exec i s = .next t ∧
      (t.status = errCode .invalidCharacter ↔
        (∃ (len : Nat) (data : Payload), i = .dec len data ∧ 2 ≤ len ∧ len ≤ 8 ∧
          ∃ k : Nat, k < len ∧ decRom (lane data k) = none) ∨
        (∃ data : Payload, i = .val 1 data ∧ decRom (lane data 0) = none))) ∧
    decRom 0x3d ≠ none

/-- Rules R92, R127: exactly when `MalformedChunk` is raised. -/
def Obligations.MalformedChunkRaisers : Prop :=
  ∀ (i : Instr) (s : State), ∃ t : State, exec i s = .next t ∧
    (t.status = errCode .malformedChunk ↔ ∃ data : Payload, i = .dec 1 data)

/-- Rule R128: exactly when `BadRequest` is raised. -/
def Obligations.BadRequestRaisers : Prop :=
  ∀ (i : Instr) (s : State), ∃ t : State, exec i s = .next t ∧
    (t.status = errCode .badRequest ↔
      match i with
      | .enc len _ => 6 ≤ len
      | .dec len _ => 9 ≤ len
      | .sym len data => len ≠ 1 ∨ 32 ≤ (lane data 0).toNat
      | .val len _ => len ≠ 1)

/-- Rule R48: a length outside its operation's legal ones is a bad request, whatever the payload, but for the one-symbol chunk;
and on a legal length the only bad request left is `SYM` of 32 or more. -/
def Obligations.LengthOutcomeClasses : Prop :=
  ∀ (i : Instr) (s : State), ∃ t : State, exec i s = .next t ∧
    (i.LegalLen = false → (∀ data : Payload, i ≠ .dec 1 data) → HoldsErr .badRequest t) ∧
    (∀ data : Payload, i = .dec 1 data → i.LegalLen = false ∧ HoldsErr .malformedChunk t) ∧
    (i.LegalLen = true → t.status ≠ errCode .malformedChunk ∧
      (t.status = errCode .badRequest → ∃ data : Payload, i = .sym 1 data ∧ 32 ≤ (lane data 0).toNat) ∧
      (i.len = 0 → HoldsOk [] t))

/-- Rule R130: what an error writes. "Nothing else changes; there is nothing else": all four registers of the spec are named,
but for the lanes of `OUT`, which the rule leaves unspecified; OperationsWriteOnlyTheResponse is the frame of the model's fields. -/
def Obligations.ErrorEntryWritesStatusAndNoLanes : Prop :=
  ∀ (i : Instr) (s : State) (e : ErrKind), requestResult i = .err e →
    ∃ t : State, exec i s = .next t ∧ HoldsErr e t

/-- Rule R133: after an error the next request is answered exactly as it is after a success, or after anything else. -/
def Obligations.ErrorsLeaveNothingBehind : Prop :=
  ∀ (i j : Instr) (s t s' : State), exec i s = .next t → t.status ≠ statusOk →
    ∃ u u' : State, exec j t = .next u ∧ exec j s' = .next u' ∧ SameResponse u u'

/-! The response port -/

/-- Rules R40, R149, R150 and log entry 4: a read before a response is the host's fault; another read sees the registers, and
beyond `OLEN` a draw of its own. -/
def Obligations.HostReadsTheResponse : Prop :=
  ∀ (s : State) (n : Nat),
    (s.rvalid = false → readRsp n s = .error .readBeforeResponse) ∧
      (s.rvalid = true → ∃ r : Response, readRsp n s = .ok r ∧ r.status = s.status ∧ r.olen = s.olen ∧
        (∀ k : Fin 8, MayConsume s k.val → r.out[k] = s.out[k]) ∧
        (∀ k : Fin 8, s.olen.toNat ≤ k.val → r.out[k] = Config.readLane n k.val))

/-- Rules R45, R46: the fields of the response word and the lanes of its payload. -/
def Obligations.ResponseWordFields : Prop :=
  ∀ r : Response,
    r.word.extractLsb' 68 2 = r.status ∧ r.word.extractLsb' 64 4 = r.olen ∧
      ∀ k : Fin 8, lane (r.word.extractLsb' 0 64) k.val = r.out[k]

/-! The host contract -/

/-- Rules R110, R111, R116: a stream is cut into `ceil(|xs|/n)` chunks that join to it again, short only at the end; and no
other cutting is short only at the end. -/
def Obligations.ChunksAreTheOnlyCut : Prop :=
  ∀ (n : Nat) (xs : List Byte), 0 < n →
    (chunksOf n xs).flatten = xs ∧ ShortOnlyLast n (chunksOf n xs) = true ∧
      (chunksOf n xs).length = (xs.length + n - 1) / n ∧
      ∀ cs : List (List Byte), ShortOnlyLast n cs = true → cs.flatten = xs → cs = chunksOf n xs

/-- Rule R116 and RB32's streaming equivalence: the chunks do not depend on how the source delivers its items. -/
def Obligations.ReadsDoNotMoveTheChunks : Prop :=
  ∀ (n : Nat) (held : List Byte) (reads : List (List Byte)), 0 < n →
    chunksOfReads n held reads = chunksOf n (held ++ reads.flatten)

/-- Rule R110 (and R119): `ENCODE_BYTES` never fails and joins the chunks' symbols, `ceil(8*n/5)` canonical ones. -/
def Obligations.EncodeBytesJoinsTheChunks : Prop :=
  ∀ (B : List Byte) (s : State),
    (runEncodeBytes B s).ending = .done ∧
      (chunksOf 5 B).length = (B.length + 4) / 5 ∧
      (runEncodeBytes B s).out = ((chunksOf 5 B).map encChunk).flatten ∧
      (runEncodeBytes B s).out.length = (8 * B.length + 4) / 5 ∧
      ∀ c ∈ (runEncodeBytes B s).out, c ∈ encRomTable ∧ c ≠ 0x3d

/-- Rule R111: `DECODE_STRING` joins the chunks' bytes if all of them decode, and stops at the first that does not, with what
was delivered before it. That "no later chunk is sent" is said by what the block is left with: the error response of
that chunk, and as many transactions as chunks up to it, counted by the model's own `draws` (log entry 2). -/
def Obligations.DecodeStringStopsAtTheFirstError : Prop :=
  (∀ T : List Byte, (chunksOf 8 T).length = (T.length + 7) / 8) ∧
    (∀ (T : List Byte) (s : State) (outs : List (List Byte)),
      (chunksOf 8 T).map decChunk = outs.map Result.ok →
        (runDecodeString T s).ending = .done ∧ (runDecodeString T s).out = outs.flatten ∧
          outs.flatten.length = 5 * (T.length / 8) + 5 * (T.length % 8) / 8 ∧
          (runDecodeString T s).block.draws = s.draws + (T.length + 7) / 8) ∧
    (∀ (T : List Byte) (s : State) (before after : List (List Byte)) (c : List Byte) (outs : List (List Byte))
      (e : ErrKind),
      chunksOf 8 T = before ++ c :: after → before.map decChunk = outs.map Result.ok → decChunk c = .err e →
        (runDecodeString T s).ending = .failed e ∧ (runDecodeString T s).out = outs.flatten ∧
          wholeResult (runDecodeString T s) = some (.err e) ∧
          HoldsErr e (runDecodeString T s).block ∧
          (runDecodeString T s).block.draws = s.draws + before.length + 1)

/-- Rule R114: one leftover symbol is `MalformedChunk`, provided all earlier chunks succeeded. -/
def Obligations.LeftoverSymbolIsMalformed : Prop :=
  ∀ (T : List Byte) (s : State), T.length % 8 = 1 →
    (∀ c ∈ T.take (T.length - 1), decRom c ≠ none) →
      wholeResult (runDecodeString T s) = some (.err .malformedChunk) ∧
        (runDecodeString T s).out.length = 5 * (T.length / 8)

/-- Rules R111, R114, R115, R117: a string decodes exactly when every character is valid and it has no one-symbol tail. -/
def Obligations.DecodableStrings : Prop :=
  ∀ (T : List Byte) (s : State),
    (∃ B : List Byte, wholeResult (runDecodeString T s) = some (.ok B)) ↔
      (∀ c ∈ T, decRom c ≠ none) ∧ T.length % 8 ≠ 1

/-- Rule R113: an empty stream sends no request, and its result is empty. -/
def Obligations.EmptyStreamsSendNothing : Prop :=
  ∀ s : State, runEncodeBytes [] s = ⟨[], .done, s⟩ ∧ runDecodeString [] s = ⟨[], .done, s⟩ ∧
    wholeResult (runDecodeString [] s) = some (.ok [])

/-- Rule R117: `ISVALID` is membership of every character in the table, and no test of the length. -/
def Obligations.IsValidIsMembership : Prop :=
  ∀ (T : List Byte) (s : State),
    (isValidAnswer (runIsValid T s) = true ↔ ∀ c ∈ T, decRom c ≠ none) ∧
      ((∃ c ∈ T, decRom c = none) → (runIsValid T s).ending = .failed .invalidCharacter)

/-- 43_stream_sequences R118, which the spec marks as derived from R102, R110 and R111: decoding what was encoded gives the bytes back, for every byte sequence, whatever the block held before. -/
def Obligations.StreamRoundTrip : Prop :=
  ∀ (B : List Byte) (s s' : State),
    wholeResult (runDecodeString (runEncodeBytes B s).out s') = some (.ok B)
end

