-- ==== Sys2Proof/Laws/Operands.lean ====
section
/-! SUPPORT. What the operand forms and the status codes give. -/

namespace Sys2Proof.Machine

@[simp] theorem lanes_length (w : Payload) (n : Nat) : (lanes w n).length = n := by
  simp [lanes]

theorem lanes_getElem? (w : Payload) (n k : Nat) : (lanes w n)[k]? = if k < n then some (lane w k) else none := by
  by_cases h : k < n <;> simp [lanes, h]

/-- Two payloads that agree on their first `n` lanes hold the same chunk of `n` items. -/
theorem lanes_congr {d d' : Payload} {n : Nat} (h : ∀ k, k < n → lane d k = lane d' k) : lanes d n = lanes d' n := by
  simpa [lanes] using h

@[simp] theorem fillLanes_getElem (xs : List Byte) (draw : Nat) (k : Nat) (h : k < 8) :
    (fillLanes xs draw)[k] = xs.getD k (Config.freeLane draw k) := by
  simp [fillLanes]

/-- A lane of the result holds the result's item. -/
theorem fillLanes_below (xs : List Byte) (draw : Nat) (k : Fin 8) (h : k.val < xs.length) (d : Byte) :
    (fillLanes xs draw)[k] = xs.getD k.val d := by
  simp [h]

/-- A lane beyond the result is the free draw. -/
theorem fillLanes_beyond (xs : List Byte) (draw : Nat) (k : Fin 8) (h : xs.length ≤ k.val) :
    (fillLanes xs draw)[k] = Config.freeLane draw k.val := by
  simp [List.getElem?_eq_none h]

@[simp] theorem codeErr_errCode (e : ErrKind) : codeErr (errCode e) = some e := by
  cases e <;> rfl

@[simp] theorem codeErr_statusOk : codeErr statusOk = none := rfl

theorem errCode_ne_statusOk (e : ErrKind) : errCode e ≠ statusOk := by
  cases e <;> decide

theorem errCode_injective {e e' : ErrKind} (h : errCode e = errCode e') : e = e' := by
  simpa using congrArg codeErr h

@[simp] theorem resultStatus_ok (xs : List Byte) : resultStatus (.ok xs) = statusOk := rfl
@[simp] theorem resultStatus_err (e : ErrKind) : resultStatus (.err e) = errCode e := rfl
@[simp] theorem resultItems_ok (xs : List Byte) : resultItems (.ok xs) = xs := rfl
@[simp] theorem resultItems_err (e : ErrKind) : resultItems (.err e) = [] := rfl

end Sys2Proof.Machine
end

