-- ==== Sys2Proof/Laws/Codec.lean ====
section
/-! SUPPORT. Lengths of results and the shape of the symbol scan: what the chunk functions can answer. -/

namespace Sys2Proof.Machine

theorem encLength_le (L : Nat) (h : L ≤ 5) : encLength L ≤ 8 := by
  unfold encLength; omega

@[simp] theorem encSymbols_length (B : List Byte) : (encSymbols B).length = 8 := by
  simp [encSymbols]

/-- The scan answers one value a symbol. -/
theorem lookupAll_length {S : List Byte} {g : List Value} (h : lookupAll S = some g) : g.length = S.length := by
  induction S generalizing g with
  | nil => simp_all [lookupAll]
  | cons c cs ih =>
    cases hc : decRom c with
    | none => simp [lookupAll, hc] at h
    | some v =>
      simp only [lookupAll, hc, Option.map_eq_some_iff] at h
      obtain ⟨g', hg', rfl⟩ := h
      simp [ih hg']

/-- The scan fails exactly when some symbol is not in the table (rule R93). -/
theorem lookupAll_eq_none {S : List Byte} : lookupAll S = none ↔ ∃ c ∈ S, decRom c = none := by
  induction S with
  | nil => simp [lookupAll]
  | cons c cs ih =>
    cases hc : decRom c with
    | none => simp [lookupAll, hc]
    | some v => simp [lookupAll, hc, ih]

/-- The scan depends on the values of the symbols alone (rule R103). -/
theorem lookupAll_congr {S S' : List Byte} (h : S.map decRom = S'.map decRom) : lookupAll S = lookupAll S' := by
  induction S generalizing S' with
  | nil => cases S' <;> simp_all [lookupAll]
  | cons c cs ih =>
    cases S' with
    | nil => simp at h
    | cons c' cs' =>
      simp only [List.map_cons, List.cons.injEq] at h
      simp [lookupAll, h.1, ih h.2]

@[simp] theorem unpackBytes_length (g : List Value) : (unpackBytes g).length = decLength g.length := by
  simp [unpackBytes]

/-- Everything `ExecENC` can answer. -/
theorem encResult_cases (len : Nat) (data : Payload) :
    (6 ≤ len ∧ encResult len data = .err .badRequest) ∨ (len = 0 ∧ encResult len data = .ok []) ∨
      (1 ≤ len ∧ len ≤ 5 ∧ encResult len data = .ok (encChunk (lanes data len))) := by
  unfold encResult
  split
  · exact .inl ⟨‹_›, rfl⟩
  · split
    · exact .inr (.inl ⟨‹_›, rfl⟩)
    · exact .inr (.inr ⟨by omega, by omega, rfl⟩)

/-- Everything `ExecDEC` can answer. -/
theorem decResult_cases (len : Nat) (data : Payload) :
    (9 ≤ len ∧ decResult len data = .err .badRequest) ∨ (len = 0 ∧ decResult len data = .ok []) ∨
      (len = 1 ∧ decResult len data = .err .malformedChunk) ∨
      (2 ≤ len ∧ len ≤ 8 ∧ lookupAll (lanes data len) = none ∧ decResult len data = .err .invalidCharacter) ∨
      (2 ≤ len ∧ len ≤ 8 ∧ ∃ g, lookupAll (lanes data len) = some g ∧ decResult len data = .ok (unpackBytes g)) := by
  unfold decResult decChunk
  simp only [lanes_length]
  by_cases h9 : 9 ≤ len
  · simp [h9]
  by_cases h0 : len = 0
  · simp [h0]
  by_cases h1 : len = 1
  · simp [h1]
  have h2 : 2 ≤ len := by omega
  have h8 : len ≤ 8 := by omega
  cases hg : lookupAll (lanes data len) <;> simp [h9, h0, h1, h2, h8]

/-- No operation answers with more than eight items, and none with six. -/
theorem requestResult_items_length (i : Instr) :
    (resultItems (requestResult i)).length ≤ 8 ∧ (resultItems (requestResult i)).length ≠ 6 := by
  cases i with
  | enc len data =>
    obtain ⟨_, h⟩ | ⟨_, h⟩ | ⟨h1, h5, h⟩ := encResult_cases len data
    · simp [requestResult, h]
    · simp [requestResult, h]
    · simp only [requestResult, h, resultItems_ok, encChunk, List.length_take, encSymbols_length, lanes_length, encLength]
      omega
  | dec len data =>
    obtain ⟨_, h⟩ | ⟨_, h⟩ | ⟨_, h⟩ | ⟨_, _, _, h⟩ | ⟨h2, h8, g, hg, h⟩ := decResult_cases len data
    · simp [requestResult, h]
    · simp [requestResult, h]
    · simp [requestResult, h]
    · simp [requestResult, h]
    · have := lookupAll_length hg
      simp only [requestResult, h, resultItems_ok, unpackBytes_length, decLength, this, lanes_length]
      omega
  | sym len data =>
    simp only [requestResult, symResult]
    split
    · simp
    · split <;> simp
  | val len data =>
    simp only [requestResult, valResult]
    split
    · simp
    · cases decRom (lane data 0) <;> simp

end Sys2Proof.Machine
end

