-- ==== Sys2Proof/Laws/PerInstr.lean ====
section
/-! SUPPORT. Statements for all instructions, one lemma per constructor. -/

namespace Sys2Proof.Laws

/-- The number spec/opcode_table.json gives as an operation's "match" (rule R47). -/
def tableMatch : Instr → ReqWord
  | .enc _ _ => 0x000000000000000000#70
  | .dec _ _ => 0x100000000000000000#70
  | .sym _ _ => 0x200000000000000000#70
  | .val _ _ => 0x300000000000000000#70

/-- The word of an instruction matches its row of the table under the table's mask, whatever its operands. -/
def OpField.Statement (i : Instr) : Prop :=
  encode i &&& 0x300000000000000000#70 = tableMatch i

theorem append_opField (op : BitVec 2) (len : BitVec 4) (data : Payload) :
    (op ++ len ++ data : BitVec (2 + 4 + 64)) &&& (0b11#2 ++ 0#4 ++ 0#64) = op ++ 0#4 ++ 0#64 := by
  ext k hk
  simp only [BitVec.getElem_and, BitVec.getElem_append]
  split
  · simp
  · split
    · simp
    · rw [show (0b11#2) = BitVec.allOnes 2 from rfl, BitVec.getElem_allOnes, Bool.and_true]

/-- The mask of the table keeps the `op` field and nothing else. -/
theorem reqWord_opField (op : BitVec 2) (len : BitVec 4) (data : Payload) :
    reqWord op len data &&& 0x300000000000000000#70 = reqWord op 0 0 :=
  append_opField op len data

theorem OpField.enc (len : Nat) (data : Payload) : OpField.Statement (.enc len data) := by
  simp only [OpField.Statement, encode, Instr.op, reqWord_opField]; rfl

theorem OpField.dec (len : Nat) (data : Payload) : OpField.Statement (.dec len data) := by
  simp only [OpField.Statement, encode, Instr.op, reqWord_opField]; rfl

theorem OpField.sym (len : Nat) (data : Payload) : OpField.Statement (.sym len data) := by
  simp only [OpField.Statement, encode, Instr.op, reqWord_opField]; rfl

theorem OpField.val (len : Nat) (data : Payload) : OpField.Statement (.val len data) := by
  simp only [OpField.Statement, encode, Instr.op, reqWord_opField]; rfl

end Sys2Proof.Laws
end

