-- ==== Sys2Proof/Laws/State.lean ====
section
/-! SUPPORT. One lemma per field per update of the state, so that no later proof unfolds a record update. -/

namespace Sys2Proof.Machine

@[simp] theorem writeResponse_rvalid (code : BitVec 2) (items : List Byte) (s : State) : (writeResponse code items s).rvalid = true := rfl
@[simp] theorem writeResponse_status (code : BitVec 2) (items : List Byte) (s : State) : (writeResponse code items s).status = code := rfl
@[simp] theorem writeResponse_olen (code : BitVec 2) (items : List Byte) (s : State) : (writeResponse code items s).olen = BitVec.ofNat 4 items.length := rfl
@[simp] theorem writeResponse_out (code : BitVec 2) (items : List Byte) (s : State) : (writeResponse code items s).out = fillLanes items s.draws := rfl
@[simp] theorem writeResponse_draws (code : BitVec 2) (items : List Byte) (s : State) : (writeResponse code items s).draws = s.draws + 1 := rfl
@[simp] theorem writeResponse_pins (code : BitVec 2) (items : List Byte) (s : State) : (writeResponse code items s).pins = s.pins := rfl

@[simp] theorem raiseError_rvalid (e : ErrKind) (s : State) : (raiseError e s).rvalid = true := rfl
@[simp] theorem raiseError_status (e : ErrKind) (s : State) : (raiseError e s).status = errCode e := rfl
@[simp] theorem raiseError_olen (e : ErrKind) (s : State) : (raiseError e s).olen = 0 := rfl
@[simp] theorem raiseError_out (e : ErrKind) (s : State) : (raiseError e s).out = fillLanes [] s.draws := rfl
@[simp] theorem raiseError_draws (e : ErrKind) (s : State) : (raiseError e s).draws = s.draws + 1 := rfl
@[simp] theorem raiseError_pins (e : ErrKind) (s : State) : (raiseError e s).pins = s.pins := rfl

@[simp] theorem resetBlock_rvalid (s : State) : (resetBlock s).rvalid = false := rfl
@[simp] theorem resetBlock_status (s : State) : (resetBlock s).status = Config.freeStatus s.draws := rfl
@[simp] theorem resetBlock_olen (s : State) : (resetBlock s).olen = Config.freeOlen s.draws := rfl
@[simp] theorem resetBlock_out (s : State) : (resetBlock s).out = fillLanes [] s.draws := rfl
@[simp] theorem resetBlock_draws (s : State) : (resetBlock s).draws = s.draws + 1 := rfl
@[simp] theorem resetBlock_pins (s : State) : (resetBlock s).pins = s.pins := rfl

@[simp] theorem presentRequest_rvalid (q : ReqWord) (s : State) : (presentRequest q s).rvalid = s.rvalid := rfl
@[simp] theorem presentRequest_status (q : ReqWord) (s : State) : (presentRequest q s).status = s.status := rfl
@[simp] theorem presentRequest_olen (q : ReqWord) (s : State) : (presentRequest q s).olen = s.olen := rfl
@[simp] theorem presentRequest_out (q : ReqWord) (s : State) : (presentRequest q s).out = s.out := rfl
@[simp] theorem presentRequest_draws (q : ReqWord) (s : State) : (presentRequest q s).draws = s.draws := rfl
@[simp] theorem presentRequest_pins (q : ReqWord) (s : State) : (presentRequest q s).pins = ⟨false, true, q⟩ :: s.pins := rfl

@[simp] theorem withFetchWord_rvalid (s : State) (nbits w : Nat) : (s.withFetchWord nbits w).rvalid = s.rvalid := rfl
@[simp] theorem withFetchWord_status (s : State) (nbits w : Nat) : (s.withFetchWord nbits w).status = s.status := rfl
@[simp] theorem withFetchWord_olen (s : State) (nbits w : Nat) : (s.withFetchWord nbits w).olen = s.olen := rfl
@[simp] theorem withFetchWord_out (s : State) (nbits w : Nat) : (s.withFetchWord nbits w).out = s.out := rfl
@[simp] theorem withFetchWord_draws (s : State) (nbits w : Nat) : (s.withFetchWord nbits w).draws = s.draws := rfl
@[simp] theorem withFetchWord_pins (s : State) (nbits w : Nat) : (s.withFetchWord nbits w).pins = ⟨false, true, BitVec.ofNat 70 (w % 2 ^ nbits)⟩ :: s.pins.tail := rfl

end Sys2Proof.Machine
end

