-- ==== Sys2Proof/Laws/Step.lean ====
section
/-! SUPPORT. What `respond`, `exec` and `step` can do, each said once. -/

namespace Sys2Proof.Machine

open Sys2Proof.Safety

/-- The one way a response is written: the status and the items of the result. -/
theorem respond_eq (r : Result) (s : State) :
    respond r s = writeResponse (resultStatus r) (resultItems r) s := by
  cases r <;> rfl

/-- A written result of at most eight items is held. -/
theorem respond_ok_holds {items : List Byte} (h : items.length ≤ 8) (s : State) :
    HoldsOk items (respond (.ok items) s) := by
  refine ⟨rfl, rfl, ?_, fun k hk => fillLanes_below items s.draws k hk 0⟩
  simp [respond]
  omega

/-- A written error is held. -/
theorem respond_err_holds (e : ErrKind) (s : State) : HoldsErr e (respond (.err e) s) :=
  ⟨rfl, rfl, rfl⟩

/-- What `respond` leaves alone. -/
theorem respond_frame (r : Result) (s : State) : OnlyResponseChanged s (respond r s) := by
  cases r <;> exact ⟨rfl, rfl⟩

/-- Every operation answers, with the response of its result. -/
theorem exec_eq_respond (i : Instr) (s : State) : exec i s = .next (respond (requestResult i) s) := by
  cases i <;> rfl

/-- Everything a step can do. -/
theorem step_cases (s : State) :
    (s.pins = [] ∧ step s = .next s) ∨
      ∃ p rest, s.pins = p :: rest ∧
        ((p.rst = true ∧ step s = .next (resetBlock { s with pins := rest })) ∨
          (p.rst = false ∧ p.reqValid = true ∧
            step s = .next (respond (execWord p.req) { s with pins := rest })) ∨
          (p.rst = false ∧ p.reqValid = false ∧ step s = .next { s with pins := rest })) := by
  unfold step nextEvent
  cases hp : s.pins with
  | nil => simp
  | cons p rest =>
    refine .inr ⟨p, rest, rfl, ?_⟩
    cases hr : p.rst <;> cases hv : p.reqValid <;> simp [pinsEvent, hr, hv, exec_eq_respond, execWord]

/-- A transaction writes the response of the request the word stands for, and the block is otherwise where it was. -/
theorem transact_eq (i : Instr) (s : State) :
    transact i s = .next (respond (requestResult (decodeReq (encode i))) s) := by
  simp [transact, step, nextEvent, pinsEvent, presentRequest, exec_eq_respond]

end Sys2Proof.Machine
end

