-- ==== Sys2Proof/Tests/Slice0.lean ====
section
/-! SUPPORT. The model's own tests. Expected results come from the spec: the words, responses and tables of
95_test_vectors.md, the examples of R57, R65, R66, R75, R90, the worked cases of 41 and 42, or a hand expansion of the
bit fields of R45. The witness_ theorems show that the hypotheses of a statement can be met, clause by clause, at the
edges of their ranges. -/

namespace Sys2Proof.Tests

open Sys2Proof.Machine Sys2Proof.Safety

/-! Well-formedness: the one check refuses a length that four bits cannot hold -/

theorem test_wf_refuses_len_sixteen :
    ¬ (Instr.enc 16 0).WellFormed ∧ ¬ (Instr.dec 16 0).WellFormed ∧ ¬ (Instr.sym 17 0).WellFormed ∧
      ¬ (Instr.val 99 0).WellFormed := by decide

theorem test_wf_accepts_len_fifteen :
    (Instr.enc 15 0).WellFormed ∧ (Instr.dec 15 0).WellFormed ∧ (Instr.sym 15 0).WellFormed ∧
      (Instr.val 0 0).WellFormed := by decide

/-- R48: the legal lengths of each operation. -/
theorem test_legal_lengths :
    ((List.range 16).filter fun n => (Instr.enc n 0).LegalLen) = [0, 1, 2, 3, 4, 5] ∧
      ((List.range 16).filter fun n => (Instr.dec n 0).LegalLen) = [0, 2, 3, 4, 5, 6, 7, 8] ∧
      ((List.range 16).filter fun n => (Instr.sym n 0).LegalLen) = [1] ∧
      ((List.range 16).filter fun n => (Instr.val n 0).LegalLen) = [1] := by decide

/-! Decoding: words written out by their fields, op then len then data (R45) -/

theorem test_decode_enc :
    decodeReq (0b00#2 ++ 0b0101#4 ++ 0x68656c6c6f000000#64) = .enc 5 0x68656c6c6f000000 := by decide

theorem test_decode_dec :
    decodeReq (0b01#2 ++ 0b1000#4 ++ 0x64316a7072763366#64) = .dec 8 0x64316a7072763366 := by decide

theorem test_decode_sym :
    decodeReq (0b10#2 ++ 0b0001#4 ++ 0x0d00000000000000#64) = .sym 1 0x0d00000000000000 := by decide

theorem test_decode_val :
    decodeReq (0b11#2 ++ 0b0001#4 ++ 0x4c00000000000000#64) = .val 1 0x4c00000000000000 := by decide

/-- R57: `ENC 68 65 6c 6c 6f` is `0568656c6c6f000000`, printed and as nine bytes. -/
theorem test_spelling_of_enc :
    printWord (Spelling.word (.enc [0x68, 0x65, 0x6c, 0x6c, 0x6f])) = "0568656c6c6f000000".toList ∧
      decodeBytes [0x05, 0x68, 0x65, 0x6c, 0x6c, 0x6f, 0, 0, 0] = .ok (.enc 5 0x68656c6c6f000000) := by decide

/-- R57: the other three spellings, `DEC "d0"`, `SYM 13`, `VAL 'L'`, and V-D46's `REQ 1, 9, ...`. -/
theorem test_spelling_of_others :
    printWord (Spelling.word (.dec [0x64, 0x30])) = "126430000000000000".toList ∧
      printWord (Spelling.word (.sym 13)) = "210d00000000000000".toList ∧
      printWord (Spelling.word (.val 0x4c)) = "314c00000000000000".toList ∧
      printWord (Spelling.word (.req 1 9 0x3030303030303030)) = "193030303030303030".toList := by decide

/-- R57: what is no 70-bit word is rejected by name. -/
theorem test_decode_bytes_rejects :
    decodeBytes [0x40, 0, 0, 0, 0, 0, 0, 0, 0] = .error (.aboveTheWord 0x40) ∧
      decodeBytes [0x05] = .error (.wrongLength 1) ∧
      decodeTableWord 72 (2 ^ 70) = none ∧
      decodeTableWord 72 0x3f0000000000000001 = some (.val 15 1) := by decide

/-! Vectors: the request word on the ports right after reset, one step, the response as the host prints it -/

/-- The printed response to the request word `w` presented right after reset. -/
def answer (w : Nat) : List Char :=
  match step (State.reset.withFetchWord 72 w) with
  | .next t =>
    match readRsp 0 t with
    | .ok r => printResponse r
    | .error _ => []
  | _ => []

/-- V-E3, V-E6, V-E11, V-E15, V-E19, V-E22. -/
theorem test_enc_symbols :
    answer 0x016800000000000000 = "026430------------".toList ∧
      answer 0x010700000000000000 = "023077------------".toList ∧
      answer 0x020001000000000000 = "0430303067--------".toList ∧
      answer 0x030000010000000000 = "053030303032------".toList ∧
      answer 0x040000000100000000 = "0730303030303038--".toList ∧
      answer 0x0568656c6c6f000000 = "0864316a7072763366".toList := by decide

/-- V-E30, V-E31, V-E32, V-E34. -/
theorem test_enc_lengths :
    answer 0x000000000000000000 = "00----------------".toList ∧
      answer 0x060102030405060000 = "30----------------".toList ∧
      answer 0x0f0000000000000000 = "30----------------".toList ∧
      answer 0x0368656cdeadbeef99 = "0564316a7072------".toList := by decide

/-- V-D4, V-D12, V-D20, V-D25, V-D42, V-D45. -/
theorem test_dec_bytes :
    answer 0x126431000000000000 = "0168--------------".toList ∧
      answer 0x1364316a0000000000 = "0168--------------".toList ∧
      answer 0x1664316a7072760000 = "0368656c----------".toList ∧
      answer 0x1844314a5052563346 = "0568656c6c6f------".toList ∧
      answer 0x1864316a707276333d = "0568656c6c60------".toList ∧
      answer 0x126430757520ff002d = "0168--------------".toList := by decide

/-- V-D32, V-D37, V-D44, V-D46. -/
theorem test_dec_errors :
    answer 0x117500000000000000 = "20----------------".toList ∧
      answer 0x1864316a7072763375 = "10----------------".toList ∧
      answer 0x100000000000000000 = "00----------------".toList ∧
      answer 0x193030303030303030 = "30----------------".toList := by decide

/-- V-L6, V-L13 and R65's example. -/
theorem test_sym_symbols :
    answer 0x211200000000000000 = "016a--------------".toList ∧
      answer 0x211f00000000000000 = "017a--------------".toList ∧
      answer 0x210d00000000000000 = "0164--------------".toList := by decide

/-- V-L14, V-L16, V-L17. -/
theorem test_sym_bad_requests :
    answer 0x212000000000000000 = "30----------------".toList ∧
      answer 0x200000000000000000 = "30----------------".toList ∧
      answer 0x220101000000000000 = "30----------------".toList := by decide

/-- V-L23, V-L27, V-L33, V-L38. -/
theorem test_val_values :
    answer 0x313d00000000000000 = "0100--------------".toList ∧
      answer 0x314c00000000000000 = "0101--------------".toList ∧
      answer 0x314a00000000000000 = "0112--------------".toList ∧
      answer 0x315a00000000000000 = "011f--------------".toList := by decide

/-- V-L41, V-L43, V-L52, V-L54. -/
theorem test_val_errors :
    answer 0x315500000000000000 = "10----------------".toList ∧
      answer 0x312d00000000000000 = "10----------------".toList ∧
      answer 0x318000000000000000 = "10----------------".toList ∧
      answer 0x383030303030303030 = "30----------------".toList := by decide

/-! The step and the ports (95_test_vectors section 2.4) -/

/-- Right after reset `RVALID` is 0 and a read of `rsp` is the host's fault; a step with nothing on the ports changes nothing. -/
theorem test_reset_and_idle :
    rspValid State.reset = false ∧ readRsp 0 State.reset = .error .readBeforeResponse ∧
      step State.reset = .next State.reset := ⟨rfl, rfl, rfl⟩

/-- Row 10: reset and `ENC 68` in the same step, reset wins. -/
theorem test_reset_beats_request :
    (match step { State.reset with pins := [⟨true, true, 0x016800000000000000⟩] } with
      | .next t => t.rvalid
      | _ => true) = false := by decide

/-- R46, R57: the response word of `ENC 68 65 6c 6c 6f` is `0864316a7072763366`. -/
theorem test_response_word :
    (Response.mk 0 8 #v[0x64, 0x31, 0x6a, 0x70, 0x72, 0x76, 0x33, 0x66]).word = 0x0864316a7072763366 := by decide

/-- R116: the bytes `68 65 6c 6c 6f`, read as 3 and 2, form one chunk. -/
theorem test_reads_form_full_chunks :
    chunksOfReads 5 [] [[0x68, 0x65, 0x6c], [0x6c, 0x6f]] = [[0x68, 0x65, 0x6c, 0x6c, 0x6f]] := by decide

/-- P1's chunks: "hello world" is cut into 5, 5 and 1 bytes. -/
theorem test_chunks_of_hello_world :
    chunksOf 5 [0x68, 0x65, 0x6c, 0x6c, 0x6f, 0x20, 0x77, 0x6f, 0x72, 0x6c, 0x64] =
      [[0x68, 0x65, 0x6c, 0x6c, 0x6f], [0x20, 0x77, 0x6f, 0x72, 0x6c], [0x64]] := by decide

/-- `DECODE_STRING "4"`, P4's tail: `MalformedChunk` and no byte. -/
theorem test_stream_one_symbol :
    wholeResult (runDecodeString [0x34] State.reset) = some (.err .malformedChunk) := by decide

/-! Witnesses -/

/-- A state in which the host presents `q`, alone or beside reset. -/
def presenting (rst valid : Bool) (q : ReqWord) : State := { State.reset with pins := [⟨rst, valid, q⟩] }

/-- What `exec` leaves, for a witness that speaks of a next state. -/
def after (i : Instr) : State := respond (requestResult i) State.reset

theorem witness_EncodedRequestDecodesBack :
    (Instr.enc 0 0).WellFormed ∧ (Instr.val 15 0xffffffffffffffff).WellFormed := by decide

theorem witness_EveryRequestWordHasOneMeaning :
    (Instr.sym 1 0x1f00000000000000).WellFormed ∧
      encode (.sym 1 0x1f00000000000000) = 0x211f00000000000000 := by decide

theorem witness_NineByteFormDecodes :
    ([0x3f, 0, 0, 0, 0, 0, 0, 0, 1] : List Byte).length = 9 ∧
      (([0x3f, 0, 0, 0, 0, 0, 0, 0, 1] : List Byte).headD 0).toNat < 0x40 ∧
      ([0x40, 0, 0, 0, 0, 0, 0, 0, 1] : List Byte).length = 9 ∧
      0x40 ≤ (([0x40, 0, 0, 0, 0, 0, 0, 0, 1] : List Byte).headD 0).toNat ∧
      ([] : List Byte).length ≠ 9 := by decide

theorem witness_PayloadHoldsChunkFromLaneZero :
    ([1, 2, 3, 4, 5, 6, 7, 8] : List Byte).length ≤ 8 ∧ ([] : List Byte).length ≤ 0 ∧
      ([1, 2, 3] : List Byte).length ≤ 7 ∧ 7 < 8 := by decide

theorem witness_SpellingsDenoteRequests :
    Spelling.wf (.enc [1, 2, 3, 4, 5]) = true ∧ Spelling.wf (.dec [1, 2, 3, 4, 5, 6, 7, 8]) = true ∧
      Spelling.wf (.enc [1, 2, 3, 4, 5, 6]) = false := by decide

theorem witness_StepRunsThePresentedRequest :
    (presenting false true 0x016800000000000000).pins = ⟨false, true, 0x016800000000000000⟩ :: [] ∧
      2 ^ 70 - 1 < 2 ^ 70 := by decide

theorem witness_IdleStepChangesNothing :
    State.reset.pins = [] ∧ (presenting false false 7).pins = ⟨false, false, 7⟩ :: [] := by decide

theorem witness_ResetBeatsARequest :
    (presenting true true 5).pins = ⟨true, true, 5⟩ :: [] ∧
      (presenting true false 5).pins = ⟨true, false, 5⟩ :: [] := by decide

theorem witness_ResponseDependsOnTheRequestAlone :
    execWord 0x016800000000000000 = .ok [0x64, 0x30] ∧ execWord 0x113d00000000000000 = .err .malformedChunk := by
  decide

theorem witness_OperationsWriteOnlyTheResponse :
    exec (.enc 1 0) State.reset = .next (after (.enc 1 0)) ∧ exec (.dec 1 0) State.reset = .next (after (.dec 1 0)) ∧
      exec (.sym 1 0) State.reset = .next (after (.sym 1 0)) ∧
      exec (.val 1 0) State.reset = .next (after (.val 1 0)) := ⟨rfl, rfl, rfl, rfl⟩

theorem witness_UnspecifiedLanesAreFreeDraws :
    (after (.enc 1 0)).olen.toNat ≤ 2 ∧ (after (.enc 6 0)).olen.toNat ≤ 0 := by decide

/-- With a response and without one, a reset, an idle step and a request from a sound state. -/
theorem witness_StepKeepsResponseSound :
    ResponseSound (after (.enc 5 0)) ∧ step (after (.enc 5 0)) = .next (after (.enc 5 0)) ∧
      ResponseSound (presenting false true 0) ∧
      step (presenting false true 0) = .next (after (.enc 0 0)) ∧
      ResponseSound (presenting true false 0) ∧
      step (presenting true false 0) = .next (resetBlock State.reset) :=
  ⟨by decide, rfl, by decide, rfl, by decide, rfl⟩

theorem witness_EncPacksBytesIntoSymbols :
    6 ≤ 6 ∧ 0 = 0 ∧ 1 ≤ 1 ∧ 5 ≤ 5 ∧
      (∀ j : Fin 9, ([0xff, 0, 0, 0, 0x80, 0, 0, 0, 0] : List Nat).getD j.val 0 =
        if j.val < 5 then (lane 0xff00000080112233 j.val).toNat else 0) := by decide

/-- The function `p` of the statement, for one byte in lane 0 and every position. -/
theorem witness_EncPacksBytesIntoSymbols_padding :
    ∀ j : Nat, (if j = 0 then 0x68 else 0) = if j < 1 then (lane 0x68ffffffffffffff j).toNat else 0 := by
  intro j
  by_cases h : j = 0
  · subst h; decide
  · have : ¬ j < 1 := by omega
    simp [h, this]

/-- Each output length of the encoder is met: 2, 4, 5, 7, 8 lanes and the last lane of each. -/
theorem witness_EncFollowsTheBitLayout :
    ((List.range 6).map fun n => (after (.enc n 0)).olen.toNat) = [0, 2, 4, 5, 7, 8] := by decide

theorem witness_EncOutputLengthTable :
    5 ≤ 5 ∧ 0 ≤ 5 ∧ (1 : Fin 8).val + 1 = (after (.enc 1 0)).olen.toNat ∧
      (7 : Fin 8).val + 1 = (after (.enc 5 0)).olen.toNat := by decide

theorem witness_EncIgnoresUnusedLanes :
    AgreeBelow 3 0x68656c0000000000 0x68656cdeadbeef99 ∧ AgreeBelow 0 0 0xffffffffffffffff ∧
      AgreeBelow 5 0x0102030405000000 0x0102030405060708 := by decide

theorem witness_EncTrailingSymbolsAreZero :
    1 ≤ ([0xff] : List Byte).length ∧ ([0xff] : List Byte).length ≤ 5 ∧
      encLength ([0xff] : List Byte).length ≤ 2 ∧ 7 < 8 ∧ encLength ([1, 2, 3, 4] : List Byte).length ≤ 7 := by
  decide

theorem witness_GroupFormulationsAgree :
    0xffffffffff < 2 ^ 40 ∧ ([31, 31, 31, 31, 31, 31, 31, 31] : List Value).length = 8 ∧
      packGroups [31, 31, 31, 31, 31, 31, 31, 31] = 0xffffffffff := by decide

theorem witness_PackingsDoNotCarry :
    ([0xff, 0xff, 0xff, 0xff, 0xff] : List Byte).length = 5 ∧ 4 < 5 ∧
      ([31, 0, 31, 0, 31, 0, 31, 0] : List Value).length = 8 ∧ 7 < 8 := by decide

theorem witness_BytePrefixFixesSymbolPrefix :
    1 ≤ ([0x68, 0x65, 0x6c] : List Byte).length ∧ ([0x68, 0x65, 0xff, 0x01, 0x02] : List Byte).length ≤ 5 ∧
      2 ≤ ([0x68, 0x65, 0x6c] : List Byte).length ∧
      ([0x68, 0x65, 0x6c] : List Byte).take 2 = ([0x68, 0x65, 0xff, 0x01, 0x02] : List Byte).take 2 ∧
      ([0x68] : List Byte).take 0 = ([0x01] : List Byte).take 0 := by decide

theorem witness_DecPacksSymbolsIntoBytes :
    9 ≤ 9 ∧ 2 ≤ 2 ∧ 8 ≤ 8 ∧ decRom (lane 0x6475000000000000 1) = none := by decide

/-- The function `g` of the statement, for the two symbols `d0` and every position. -/
theorem witness_DecPacksSymbolsIntoBytes_groups :
    (∀ i : Nat, i < 2 → decRom (lane 0x6430000000000000 i) = some (if i = 0 then 13 else 0)) ∧
      ∀ i : Nat, 2 ≤ i → (if i = 0 then 13 else 0 : Value) = 0 := by
  refine ⟨by decide, fun i hi => ?_⟩
  have : i ≠ 0 := by omega
  simp [this]

theorem witness_DecFollowsTheBitLayout :
    lookupAll (lanes 0x6430000000000000 2) = some [13, 0] ∧
      lookupAll (lanes 0x64316a7072763366 8) = some [13, 1, 18, 22, 24, 27, 3, 15] ∧
      ((List.range 9).map fun n => (after (.dec n 0x3030303030303030)).olen.toNat) = [0, 0, 1, 1, 2, 3, 3, 4, 5] := by
  decide

theorem witness_DecOutputLengthTable :
    (∀ i : Nat, i < 8 → decRom (lane 0x3030303030303030 i) ≠ none) ∧
      (∀ i : Nat, i < 1 → decRom (lane 0x3030303030303030 i) ≠ none) ∧
      (∀ i : Nat, i < 0 → decRom (lane 0 i) ≠ none) := by decide

theorem witness_InvalidSymbolFailsTheChunk :
    decRom (lane 0x64316a7072763375 7) = none ∧ decRom (lane 0x7564000000000000 0) = none ∧
      0x80 ≤ (0x80 : Byte).toNat := by decide

theorem witness_PadFillReachesNoByte :
    ([13, 0] : List Value).length ≤ 2 ∧ ([13, 0] : List Value).length + (List.replicate 6 (31 : Value)).length = 8 ∧
      0 < decLength ([13, 0] : List Value).length ∧ 4 < decLength (List.replicate 8 (1 : Value)).length := by decide

theorem witness_ExplicitPadReadsAsZero :
    (∀ k : Nat, k < 3 →
      lane 0x644f6f0000000000 k = lane 0x643d3d0000000000 k ∨
        (lane 0x643d3d0000000000 k = 0x3d ∧
          (lane 0x644f6f0000000000 k = 0x30 ∨ lane 0x644f6f0000000000 k = 0x4f ∨
            lane 0x644f6f0000000000 k = 0x6f))) := by decide

theorem witness_ResidualBitsAreDropped :
    lookupAll (lanes 0x7a77000000000000 2) = some [31, 28] ∧ lookupAll (lanes 0x7a7a000000000000 2) = some [31, 31] ∧
      packGroups (padGroups [31, 28]) / 2 ^ (40 - 8 * (5 * 2 / 8)) =
        packGroups (padGroups [31, 31]) / 2 ^ (40 - 8 * (5 * 2 / 8)) := by decide

theorem witness_LengthsThreeAndSixAreAccepted :
    (∀ i : Nat, i + 1 < 3 → decRom (lane 0x64316a0000000000 i) ≠ none) ∧
      decRom (lane 0x64316a0000000000 2) ≠ none ∧ decRom (lane 0x6431750000000000 2) = none ∧
      (∀ i : Fin 5, decRom (lane 0x64316a7072760000 i.val) ≠ none) ∧
      decRom (lane 0x64316a7072760000 5) ≠ none ∧ decRom (lane 0x64316a7072750000 5) = none := by
  refine ⟨fun i hi => ?_, by decide, by decide, by decide, by decide, by decide⟩
  have : i = 0 ∨ i = 1 := by omega
  obtain rfl | rfl := this <;> decide

theorem witness_DecIgnoresUnusedLanes :
    AgreeBelow 2 0x6430000000000000 0x6430757520ff002d ∧ AgreeBelow 8 5 5 ∧ AgreeBelow 0 0 9 := by decide

theorem witness_SynonymsDecodeAlike :
    ∀ k : Nat, k < 8 → decRom (lane 0x64316a7072763366 k) = decRom (lane 0x444c4a5052563346 k) := by decide

theorem witness_DecReadsSymbolsAsValDoes :
    ([13, 0] : List Value).length = 2 ∧
      HoldsOk [(([13, 0] : List Value).getD 0 0).setWidth 8] (after (.val 1 (payloadOf [0x64]))) ∧
      HoldsOk [(([13, 0] : List Value).getD 1 0).setWidth 8] (after (.val 1 (payloadOf [0x30]))) := by decide

theorem witness_ChunkRoundTrip :
    1 ≤ ([0x68] : List Byte).length ∧ ([1, 2, 3, 4, 5] : List Byte).length ≤ 5 ∧
      1 ≤ ([0x64, 0x31] : List Byte).length ∧ ([0x64, 0x31] : List Byte).length ≤ 8 ∧
      decChunk [0x64, 0x30] = .ok [0x68] ∧ encChunk [0x68] = [0x64, 0x30] ∧
      decChunk [0x64, 0x31] = .ok [0x68] ∧ lookupAll [0x64, 0x31] = some [13, 1] ∧ residualBits [13, 1] = 1 := by
  decide

/-- The lengths 0, 1 and 5, with what the two operations leave at each. -/
theorem witness_BlockRoundTrip :
    0 ≤ 5 ∧ 5 ≤ 5 ∧ (after (.enc 5 0x68656c6c6f000000)).olen = 8 ∧
      HoldsOk (lanes 0x68656c6c6f000000 5)
        (after (.dec 8 (lanesWord (after (.enc 5 0x68656c6c6f000000)).out))) := by decide

theorem witness_SymLooksUpTheSymbol :
    0 ≠ 1 ∧ 32 ≤ (lane 0x2000000000000000 0).toNat ∧ (lane 0x1f00000000000000 0).toNat = (31 : Value).toNat := by
  decide

theorem witness_ValLooksUpTheValue :
    2 ≠ 1 ∧ decRom (lane 0x7500000000000000 0) = none ∧ decRom (lane 0x7a00000000000000 0) = some 31 := by decide

theorem witness_ValUndoesSym :
    decRom 0x4c = some 1 ∧ decRom 0x7a = some 31 ∧ (0x5a : Byte) ||| 0x20 ∈ encRomTable := by decide

theorem witness_TablesHoldTheAlphabet :
    2 ≤ (2 : Fin 32).val ∧ (9 : Fin 32).val ≤ 9 ∧ 10 ≤ (10 : Fin 32).val ∧ 10 ≤ (31 : Fin 32).val := by decide

theorem witness_TableFacts :
    encRom 3 = encRom 3 ∧ decRom 0x39 = some 9 ∧ 0x40 ≤ (0x5f : Byte).toNat ∧ (0x7a : Byte).toNat ≤ 0x7a := by decide

/-- The edges of the legal lengths, the empty chunks and the one-symbol chunk among them. -/
theorem witness_LengthOutcomeClasses :
    (Instr.enc 6 0).LegalLen = false ∧ (Instr.enc 0 0).LegalLen = true ∧ (Instr.enc 0 0).len = 0 ∧
      (Instr.dec 1 7).LegalLen = false ∧ (Instr.dec 9 0).LegalLen = false ∧ (Instr.dec 8 0).LegalLen = true ∧
      (Instr.sym 1 0x2000000000000000).LegalLen = true ∧
      (after (.sym 1 0x2000000000000000)).status = errCode .badRequest := by decide

theorem witness_ErrorEntryWritesStatusAndNoLanes :
    requestResult (.enc 6 0) = .err .badRequest ∧ requestResult (.dec 1 0) = .err .malformedChunk ∧
      requestResult (.val 1 0x7500000000000000) = .err .invalidCharacter := by decide

theorem witness_ErrorsLeaveNothingBehind :
    exec (.dec 1 0) State.reset = .next (after (.dec 1 0)) ∧ (after (.dec 1 0)).status ≠ statusOk :=
  ⟨rfl, by decide⟩

theorem witness_HostReadsTheResponse :
    State.reset.rvalid = false ∧ (after (.enc 1 0)).rvalid = true ∧ MayConsume (after (.enc 1 0)) 1 ∧
      (after (.enc 1 0)).olen.toNat ≤ 2 := by decide

theorem witness_ChunksAreTheOnlyCut :
    0 < 1 ∧ ShortOnlyLast 2 [[1, 2], [3]] = true ∧ ([[1, 2], [3]] : List (List Byte)).flatten = [1, 2, 3] ∧
      ShortOnlyLast 2 [[1], [2, 3]] = false := by decide

theorem witness_ReadsDoNotMoveTheChunks : 0 < 5 := by decide

theorem witness_DecodeStringStopsAtTheFirstError :
    (chunksOf 8 [0x64, 0x30]).map decChunk = [[0x68]].map Result.ok ∧
      chunksOf 8 [0x30, 0x30, 0x30, 0x30, 0x30, 0x30, 0x30, 0x30, 0x34] =
        [[0x30, 0x30, 0x30, 0x30, 0x30, 0x30, 0x30, 0x30]] ++ [0x34] :: [] ∧
      [[0x30, 0x30, 0x30, 0x30, 0x30, 0x30, 0x30, 0x30]].map decChunk = [[0, 0, 0, 0, 0]].map Result.ok ∧
      decChunk [0x34] = .err .malformedChunk := by decide

theorem witness_LeftoverSymbolIsMalformed :
    ([0x75] : List Byte).length % 8 = 1 ∧
      (∀ c ∈ ([0x75] : List Byte).take (([0x75] : List Byte).length - 1), decRom c ≠ none) := by decide

theorem witness_IsValidIsMembership :
    (∃ c ∈ ([0x64, 0x2d] : List Byte), decRom c = none) ∧ ∀ c ∈ ([0x3d, 0x4f] : List Byte), decRom c ≠ none := by
  decide

end Sys2Proof.Tests
end

/-! Noninterference of requests (rules R8, R11, R47): the response to a presented word is `Exec` of the word, whatever
the state was. -/

namespace Sys2Proof.Machine

open Sys2Proof.Safety

/-- A step on a presented request word writes the response of `Exec` of that word to the state before the presenting
(rules R47, R145). -/
@[simp] theorem step_presentRequest (q : ReqWord) (s : State) :
    step (presentRequest q s) = .next (respond (execWord q) s) :=
  exec_eq_respond (decodeReq q) s

/-- `Exec` of a request word gives at most eight items. -/
theorem length_le_of_execWord_eq_ok {q : ReqWord} {items : List Byte} (h : execWord q = .ok items) :
    items.length ≤ 8 := by
  have hle : (resultItems (execWord q)).length ≤ 8 := (requestResult_items_length (decodeReq q)).1
  simpa only [h, resultItems_ok] using hle

/-- The lanes below `OLEN` are the result's items alone, so no free draw shows in them (rules R20, R21). -/
theorem writeResponse_sameResponse (code : BitVec 2) (items : List Byte) (s s' : State) :
    SameResponse (writeResponse code items s) (writeResponse code items s') := by
  refine ⟨rfl, fun _ => ⟨rfl, rfl, fun k hk => ?_⟩⟩
  have hlt : k.val < items.length :=
    lt_of_lt_of_le hk (by simpa using Nat.mod_le items.length 16)
  exact (fillLanes_below items s.draws k hlt 0).trans (fillLanes_below items s'.draws k hlt 0).symm

/-- One result shows the host one response, whatever state it is written to. -/
theorem respond_sameResponse (r : Result) (s s' : State) : SameResponse (respond r s) (respond r s') := by
  rw [respond_eq r s, respond_eq r s']
  exact writeResponse_sameResponse _ _ s s'

/-- Settles O12: the step writes the result of `execWord q`, and a written result shows the same response on every
state. -/
theorem responseDependsOnTheRequestAlone : Obligations.ResponseDependsOnTheRequestAlone := by
  intro q s s'
  refine ⟨respond (execWord q) s, respond (execWord q) s', step_presentRequest q s, step_presentRequest q s',
    respond_sameResponse (execWord q) s s', fun items h => ?_, fun e h => ?_⟩
  · rw [h]
    exact respond_ok_holds (length_le_of_execWord_eq_ok h) s
  · rw [h]
    exact respond_err_holds e s

end Sys2Proof.Machine

/-! The response registers as a request leaves them (rules R10, R20, R21), and the invariant every step keeps. -/

namespace Sys2Proof.Machine

open Sys2Proof.Safety

/-- `OLEN` counts the items of the result: no result has more than 8, so the 4-bit field loses nothing
(rules R20, R46). -/
theorem respond_requestResult_olen_toNat (i : Instr) (s : State) :
    (respond (requestResult i) s).olen.toNat = (resultItems (requestResult i)).length := by
  have hle : (resultItems (requestResult i)).length ≤ 8 := (requestResult_items_length i).1
  rw [respond_eq, writeResponse_olen, BitVec.toNat_ofNat]
  exact Nat.mod_eq_of_lt (by omega)

/-- A response whose status is not OK is an error response, which holds no items (rules R20, R130). -/
theorem respond_olen_eq_zero_of_status_ne_ok {r : Result} {s : State} (h : (respond r s).status ≠ statusOk) :
    (respond r s).olen = 0 := by
  cases r with
  | ok items => exact absurd rfl h
  | err e => exact raiseError_olen e s

/-- The response of any request is sound, whatever the state it is written to. -/
theorem respond_requestResult_sound (i : Instr) (s : State) : ResponseSound (respond (requestResult i) s) := by
  intro _
  obtain ⟨hle, hne⟩ := requestResult_items_length i
  rw [respond_requestResult_olen_toNat]
  exact ⟨hle, hne, respond_olen_eq_zero_of_status_ne_ok⟩

/-- While `RVALID` is 0 nothing is promised of the other registers (rule R21 (b)). -/
theorem responseSound_of_rvalid_eq_false {s : State} (h : s.rvalid = false) : ResponseSound s :=
  fun hv => absurd (h.symm.trans hv) Bool.false_ne_true

/-- Settles O15, by the cases of a step: a reset clears `RVALID`, a request writes a sound response, and a step with
neither leaves the response registers as they were. -/
theorem stepKeepsResponseSound : Obligations.StepKeepsResponseSound := by
  intro s t hs hst
  obtain ⟨_, h⟩ | ⟨p, rest, _, ⟨_, h⟩ | ⟨_, _, h⟩ | ⟨_, _, h⟩⟩ := step_cases s <;>
    obtain rfl := Host.Outcome.next.inj (h.symm.trans hst)
  · exact hs
  · exact responseSound_of_rvalid_eq_false (resetBlock_rvalid _)
  · exact respond_requestResult_sound (decodeReq p.req) _
  · exact hs

/-- Settles O16: right after reset `RVALID` is 0. -/
theorem resetResponseIsSound : Obligations.ResetResponseIsSound :=
  responseSound_of_rvalid_eq_false rfl

/-- Settles O14: `OLEN` is the number of items, and every lane at or beyond them is drawn free. -/
theorem unspecifiedLanesAreFreeDraws : Obligations.UnspecifiedLanesAreFreeDraws := by
  intro i s
  refine ⟨_, exec_eq_respond i s, fun k hk => ?_⟩
  rw [respond_requestResult_olen_toNat] at hk
  simpa only [respond_eq, writeResponse_out] using fillLanes_beyond _ s.draws k hk

/-- Settles O13: every operation is one `respond`, which sets `RVALID` and keeps the frame. -/
theorem operationsWriteOnlyTheResponse : Obligations.OperationsWriteOnlyTheResponse := by
  intro i s t h
  obtain rfl := Host.Outcome.next.inj ((exec_eq_respond i s).symm.trans h)
  refine ⟨?_, respond_frame (requestResult i) s⟩
  rw [respond_eq, writeResponse_rvalid]

/-- Settles O10: each register stands at its reset value, and a read while `RVALID` is 0 is the host's fault. -/
theorem resetStateHoldsNoResponse : Obligations.ResetStateHoldsNoResponse :=
  ⟨rfl, rfl, rfl, rfl, fun k => Vector.getElem_ofFn k.isLt, fun _ => rfl⟩

end Sys2Proof.Machine

/-! The two tables (rules R12 to R14): `DEC_ROM` is searched row by row, over the five rows of the grid that hold a valid
code. -/

namespace Sys2Proof.Machine

/-- Selecting the positions of a list by what stands there is `List.findIdxs`. -/
theorem filter_range_getD_eq_findIdxs {α : Type} (l : List α) (d : α) (p : α → Bool) :
    (List.range l.length).filter (fun i => p (l.getD i d)) = l.findIdxs p := by
  induction l with
  | nil => rfl
  | cons x xs ih =>
    rw [List.length_cons, List.range_succ_eq_map, List.findIdxs_cons, List.findIdxs_start (s := 0 + 1), ← ih]
    simp [List.filter_cons, List.filter_map, Function.comp_def]

theorem decRomTable_length : decRomTable.length = 256 := by
  simp only [decRomTable, List.length_append]
  rfl

/-- The character codes whose entry of `DEC_ROM` satisfies `p`, read off the rows 3_ to 7_ of the grid of rule R13. -/
def codesWhere (p : Option Value → Bool) : List Nat :=
  decRomRow3.findIdxs p 0x30 ++ decRomRow4.findIdxs p 0x40 ++ decRomRow5.findIdxs p 0x50 ++
    decRomRow6.findIdxs p 0x60 ++ decRomRow7.findIdxs p 0x70

theorem findIdxs_decRomNoRow {p : Option Value → Bool} (h : p none = false) (start : Nat) :
    decRomNoRow.findIdxs p start = [] :=
  List.findIdxs_eq_nil_iff.mpr fun o ho => by rw [List.eq_of_mem_replicate ho, h]

theorem findIdxs_decRomTable {p : Option Value → Bool} (h : p none = false) :
    decRomTable.findIdxs p = codesWhere p := by
  simp only [decRomTable, List.findIdxs_append, findIdxs_decRomNoRow h, List.nil_append, List.append_nil]
  rfl

/-- A search of all 256 codes for valid entries finds what the five rows hold. -/
theorem filter_codes_eq_codesWhere {p : Option Value → Bool} (h : p none = false) :
    ((List.range 256).filter fun c => p (decRom (BitVec.ofNat 8 c))) = codesWhere p := by
  rw [← findIdxs_decRomTable h, ← filter_range_getD_eq_findIdxs decRomTable none p, decRomTable_length]
  refine List.filter_congr fun c hc => ?_
  rw [decRom, BitVec.toNat_ofNat, Nat.mod_eq_of_lt (List.mem_range.mp hc)]

/-- The codes of a value are found in the five rows. -/
theorem filter_codes_of_value (v : Value) :
    ((List.range 256).filter fun c => decRom (BitVec.ofNat 8 c) = some v) = codesWhere (· = some v) :=
  filter_codes_eq_codesWhere (p := fun o => o = some v) rfl

theorem codesWhere_zero : codesWhere (· = some 0) = [0x30, 0x3d, 0x4f, 0x6f] := by decide

theorem codesWhere_one : codesWhere (· = some 1) = [0x31, 0x49, 0x4c, 0x69, 0x6c] := by decide

theorem codesWhere_digit : ∀ v : Fin 32, 2 ≤ v.val → v.val ≤ 9 →
    codesWhere (· = some (BitVec.ofNat 5 v.val)) = [0x30 + v.val] := by decide

theorem codesWhere_letter : ∀ v : Fin 32, 10 ≤ v.val →
    codesWhere (· = some (BitVec.ofNat 5 v.val)) =
      [(encRom (BitVec.ofNat 5 v.val)).toNat - 0x20, (encRom (BitVec.ofNat 5 v.val)).toNat] := by decide

theorem encRomTable_eq_alphabet :
    encRomTable = "0123456789abcdefghjkmnpqrstvwxyz".toList.map fun ch => BitVec.ofNat 8 ch.toNat := rfl

theorem map_encRom_eq_encRomTable : (List.range 32).map (fun v => encRom (BitVec.ofNat 5 v)) = encRomTable := by
  decide

/-- Settles O41: `ENC_ROM` listed by value is the alphabet, and the rows of `DEC_ROM` are searched for each value. -/
theorem tablesHoldTheAlphabet : Obligations.TablesHoldTheAlphabet :=
  ⟨map_encRom_eq_encRomTable.trans encRomTable_eq_alphabet,
    (filter_codes_of_value 0).trans codesWhere_zero,
    (filter_codes_of_value 1).trans codesWhere_one,
    fun v h2 h9 => (filter_codes_of_value _).trans (codesWhere_digit v h2 h9),
    fun v h10 => (filter_codes_of_value _).trans (codesWhere_letter v h10)⟩

/-- Rule R14 (b): `DEC_ROM` undoes `ENC_ROM`. -/
@[simp] theorem decRom_encRom : ∀ v : Value, decRom (encRom v) = some v := by decide

/-- Rule R14 (a), which (b) gives: `ENC_ROM` has a left inverse. -/
theorem encRom_injective : Function.Injective encRom := fun v w h => by
  simpa using congrArg decRom h

/-- The 61 valid codes of rule R14 (c). -/
theorem codesWhere_isSome_length : (codesWhere Option.isSome).length = 61 := by decide

/-- Rule R14 (c): how many codes each value has. -/
theorem codesWhere_lengths :
    ((List.range 32).map fun v => (codesWhere (· = some (BitVec.ofNat 5 v))).length) =
      [4, 5] ++ List.replicate 8 1 ++ List.replicate 22 2 := by decide

theorem encRom_mem_encRomTable : ∀ v : Value, encRom v ∈ encRomTable := by decide

/-- Rule R14 (d): a canonical symbol is its own canonical form. -/
theorem canonicalForm_of_mem_encRomTable : ∀ c ∈ encRomTable, canonicalForm c = some c := by decide

theorem canonicalForm_of_decRom {c : Byte} {v : Value} (h : decRom c = some v) : canonicalForm c = some (encRom v) := by
  rw [canonicalForm, h, Option.map_some]

/-- A valid code is the canonical symbol of its value exactly when it is an entry of `ENC_ROM`. -/
theorem encRom_eq_iff_mem_encRomTable {c : Byte} {v : Value} (h : decRom c = some v) :
    encRom v = c ↔ c ∈ encRomTable where
  mp hc := hc ▸ encRom_mem_encRomTable v
  mpr hc := Option.some.inj ((canonicalForm_of_decRom h).symm.trans (canonicalForm_of_mem_encRomTable c hc))

/-- The canonical symbols are the digits and the lowercase letters without i, l, o and u. -/
theorem mem_encRomTable_iff : ∀ c : Byte, c ∈ encRomTable ↔
    (0x30 ≤ c.toNat ∧ c.toNat ≤ 0x39) ∨
      (0x61 ≤ c.toNat ∧ c.toNat ≤ 0x7a ∧ c ∉ [0x69, 0x6c, 0x6f, 0x75]) := by decide

/-- Rule R14 (e): the rows 4_ and 5_ of the grid are the rows 6_ and 7_. -/
theorem decRom_add_caseBit : ∀ c : Byte, 0x40 ≤ c.toNat → c.toNat ≤ 0x5f → decRom c = decRom (c + 0x20) := by decide

/-- Rule R14 (f). -/
theorem decRom_letter_eq_none_iff : ∀ c : Byte,
    (0x41 ≤ c.toNat ∧ c.toNat ≤ 0x5a) ∨ (0x61 ≤ c.toNat ∧ c.toNat ≤ 0x7a) →
      (decRom c = none ↔ c = 0x75 ∨ c = 0x55) := by decide

/-- Settles O42: the six facts of rule R14, the counts of (c) taken over the five rows that hold a valid code. -/
theorem tableFacts : Obligations.TableFacts := by
  refine ⟨encRom_injective, decRom_encRom, ⟨?_, ?_⟩, fun c v h => ⟨canonicalForm_of_decRom h, ?_⟩,
    decRom_add_caseBit, decRom_letter_eq_none_iff⟩
  · rw [filter_codes_eq_codesWhere rfl, codesWhere_isSome_length]
  · simp only [filter_codes_of_value, codesWhere_lengths]
  · rw [encRom_eq_iff_mem_encRomTable h, mem_encRomTable_iff]

end Sys2Proof.Machine

/-! The 40-bit packings (rules R34, R36, R80, R100) are base 2^8 and base 2^5 numerals: an item is a digit, so it stands in a
bit range of its own. -/

namespace Sys2Proof.Machine

section
variable {w : Nat}

/-- Digit `k` of the numeral with the digits `f 0`, `f 1`, ..., lowest first. -/
theorem ofDigits_div_pow_mod (f : Nat → BitVec w) {n k : Nat} (hk : k < n) :
    Nat.ofDigits (2 ^ w) ((List.range n).map fun i => (f i).toNat) / (2 ^ w) ^ k % 2 ^ w = (f k).toNat := by
  have hlt : ∀ d ∈ (List.range n).map fun i => (f i).toNat, d < 2 ^ w := by simp [BitVec.isLt]
  rw [Nat.ofDigits_div_pow_eq_ofDigits_drop k (Nat.two_pow_pos w) _ hlt, List.drop_eq_getElem_cons (by simpa),
    Nat.ofDigits_cons]
  simp

theorem ofDigits_lt_pow (f : Nat → BitVec w) (n : Nat) (hw : 0 < w) :
    Nat.ofDigits (2 ^ w) ((List.range n).map fun i => (f i).toNat) < (2 ^ w) ^ n := by
  have hlt : ∀ d ∈ (List.range n).map fun i => (f i).toNat, d < 2 ^ w := by simp [BitVec.isLt]
  simpa using Nat.ofDigits_lt_base_pow_length (Nat.one_lt_two_pow hw.ne') hlt

end

theorem packBytes_eq_ofDigits (P : List Byte) :
    packBytes P = Nat.ofDigits (2 ^ 8) ((List.range 5).map fun i => (P.getD (4 - i) 0).toNat) := by
  simp only [packBytes, List.range, List.range.loop, List.map, Nat.ofDigits_cons, Nat.ofDigits_nil, Nat.reduceSub]
  omega

theorem packGroups_eq_ofDigits (g : List Value) :
    packGroups g = Nat.ofDigits (2 ^ 5) ((List.range 8).map fun i => (g.getD (7 - i) 0).toNat) := by
  simp only [packGroups, List.range, List.range.loop, List.map, Nat.ofDigits_cons, Nat.ofDigits_nil, Nat.reduceSub]
  omega

theorem byteAt_toNat (N j : Nat) : (byteAt N j).toNat = N / (2 ^ 8) ^ (4 - j) % 2 ^ 8 := by
  rw [byteAt, BitVec.toNat_ofNat, Nat.and_two_pow_sub_one_eq_mod _ 8, Nat.mod_mod, Nat.shiftRight_eq_div_pow,
    ← Nat.pow_mul, Nat.mul_sub]

theorem groupAt_toNat (N k : Nat) : (groupAt N k).toNat = N / (2 ^ 5) ^ (7 - k) % 2 ^ 5 := by
  rw [groupAt, BitVec.toNat_ofNat, Nat.and_two_pow_sub_one_eq_mod _ 5, Nat.mod_mod, Nat.shiftRight_eq_div_pow,
    ← Nat.pow_mul, Nat.mul_sub]

theorem packBytes_lt (P : List Byte) : packBytes P < 2 ^ 40 := by
  rw [packBytes_eq_ofDigits]
  exact ofDigits_lt_pow _ 5 (by decide)

theorem packGroups_lt (g : List Value) : packGroups g < 2 ^ 40 := by
  rw [packGroups_eq_ofDigits]
  exact ofDigits_lt_pow _ 8 (by decide)

theorem byteAt_packBytes (P : List Byte) {j : Nat} (hj : j < 5) : byteAt (packBytes P) j = P.getD j 0 := by
  apply BitVec.eq_of_toNat_eq
  rw [byteAt_toNat, packBytes_eq_ofDigits, ofDigits_div_pow_mod (fun i => P.getD (4 - i) 0) (by omega),
    Nat.sub_sub_self (by omega)]

theorem groupAt_packGroups (g : List Value) {k : Nat} (hk : k < 8) : groupAt (packGroups g) k = g.getD k 0 := by
  apply BitVec.eq_of_toNat_eq
  rw [groupAt_toNat, packGroups_eq_ofDigits, ofDigits_div_pow_mod (fun i => g.getD (7 - i) 0) (by omega),
    Nat.sub_sub_self (by omega)]

/-- Settles O23: both packings are numerals, bounded by the number of their digits, and each item is read back as its
digit. -/
theorem packingsDoNotCarry : Obligations.PackingsDoNotCarry :=
  ⟨fun P _ => ⟨packBytes_lt P, fun _ hj => byteAt_packBytes P hj⟩,
    fun g _ => ⟨packGroups_lt g, fun _ hk => groupAt_packGroups g hk⟩⟩

end Sys2Proof.Machine

/-! Payloads lane by lane (rules R6, R33, R38, R57). -/

namespace Sys2Proof.Machine

/-- `lane` undoes the joining of eight lanes. The width of the upper seven is kept as a sum, and not added up, so that the
split of an append matches at every lane. -/
theorem lane_lanesWord (v : Vector Byte 8) {k : Nat} (hk : k < 8) : lane (lanesWord v) k = v[k] := by
  rw [lane, lanesWord, BitVec.extractLsb'_append_eq_ite (v := 8 + 8 + 8 + 8 + 8 + 8 + 8)]
  interval_cases k <;> simp [BitVec.extractLsb'_append_eq_ite, -Nat.reduceAdd]

theorem payloadOf_eq_lanesWord (xs : List Byte) :
    payloadOf xs = lanesWord (Vector.ofFn fun i => xs.getD i.val 0) := rfl

theorem lane_payloadOf (xs : List Byte) {k : Nat} (hk : k < 8) : lane (payloadOf xs) k = xs.getD k 0 := by
  rw [payloadOf_eq_lanesWord, lane_lanesWord _ hk, Vector.getElem_ofFn]

theorem lanes_payloadOf {xs : List Byte} (h : xs.length ≤ 8) : lanes (payloadOf xs) xs.length = xs := by
  refine List.ext_getElem (lanes_length _ _) fun k _ hk => ?_
  have hlane : lane (payloadOf xs) k = xs[k] := by
    rw [lane_payloadOf xs (by omega), List.getD_eq_getElem _ _ hk]
  simpa [lanes] using hlane

/-- Settles O5: a lane of the payload is the item there, or 0 where the chunk has none. -/
theorem payloadHoldsChunkFromLaneZero : Obligations.PayloadHoldsChunkFromLaneZero := fun xs h =>
  ⟨lanes_payloadOf h, fun _ hle hk => (lane_payloadOf xs hk).trans (List.getD_eq_default _ _ hle)⟩

end Sys2Proof.Machine

/-! The host's read of `rsp` (rules R40, R149, R150). -/

namespace Sys2Proof.Machine

/-- The lanes that read number `n` of `rsp` sees (rule R150, log entry 4). -/
def readLanes (n : Nat) (s : State) : Vector Byte 8 :=
  Vector.ofFn fun i => if i.val < s.olen.toNat then s.out[i.val] else Config.readLane n i.val

theorem readRsp_of_rvalid {s : State} (h : s.rvalid = true) (n : Nat) :
    readRsp n s = .ok ⟨s.status, s.olen, readLanes n s⟩ := if_pos h

theorem readRsp_of_rvalid_eq_false {s : State} (h : s.rvalid = false) (n : Nat) :
    readRsp n s = .error .readBeforeResponse := if_neg (Bool.eq_false_iff.mp h)

theorem readLanes_below {s : State} {k : Fin 8} (h : k.val < s.olen.toNat) (n : Nat) :
    (readLanes n s)[k] = s.out[k] := by
  simp [readLanes, h]

theorem readLanes_beyond {s : State} {k : Fin 8} (h : s.olen.toNat ≤ k.val) (n : Nat) :
    (readLanes n s)[k] = Config.readLane n k.val := by
  simp [readLanes, h]

/-- Settles O50, by the two answers of `readRsp`; the lanes of a response divide at `OLEN`. -/
theorem hostReadsTheResponse : Obligations.HostReadsTheResponse := fun _ n =>
  ⟨fun h => readRsp_of_rvalid_eq_false h n, fun h => ⟨_, readRsp_of_rvalid h n, rfl, rfl,
    fun _ ⟨_, hk⟩ => readLanes_below hk n, fun _ hk => readLanes_beyond hk n⟩⟩

end Sys2Proof.Machine

/-! Request words (rules R45, R47, R49, R56): a word is its three fields and nothing more, and so is a well-formed
instruction. -/

namespace Sys2Proof

section
variable (op : BitVec 2) (len : BitVec 4) (data : Payload)

@[simp] theorem reqWord_op : (reqWord op len data).extractLsb' 68 2 = op := by
  calc (op ++ len ++ data).extractLsb' 68 2
      = (op ++ len).extractLsb' 4 2 := BitVec.extractLsb'_append_eq_of_le (by decide)
    _ = op.extractLsb' 0 2 := BitVec.extractLsb'_append_eq_of_le (by decide)
    _ = op := BitVec.extractLsb'_eq_self

@[simp] theorem reqWord_len : (reqWord op len data).extractLsb' 64 4 = len := by
  calc (op ++ len ++ data).extractLsb' 64 4
      = (op ++ len).extractLsb' 0 4 := BitVec.extractLsb'_append_eq_of_le (by decide)
    _ = len.extractLsb' 0 4 := BitVec.extractLsb'_append_eq_of_add_le (by decide)
    _ = len := BitVec.extractLsb'_eq_self

@[simp] theorem reqWord_data : (reqWord op len data).extractLsb' 0 64 = data := by
  calc (op ++ len ++ data).extractLsb' 0 64
      = data.extractLsb' 0 64 := BitVec.extractLsb'_append_eq_of_add_le (by decide)
    _ = data := BitVec.extractLsb'_eq_self

end

/-- The three fields cover the word: "there are no reserved bits" (rule R45). -/
theorem reqWord_fields (q : ReqWord) :
    reqWord (q.extractLsb' 68 2) (q.extractLsb' 64 4) (q.extractLsb' 0 64) = q := by
  calc q.extractLsb' 68 2 ++ q.extractLsb' 64 4 ++ q.extractLsb' 0 64
      = q.extractLsb' 64 6 ++ q.extractLsb' 0 64 :=
        congrArg (· ++ q.extractLsb' 0 64) (BitVec.extractLsb'_append_extractLsb'_eq_extractLsb' rfl)
    _ = q.extractLsb' 0 70 := BitVec.extractLsb'_append_extractLsb'_eq_extractLsb' rfl
    _ = q := BitVec.extractLsb'_eq_self

/-- An instruction is its operation code, its length and its payload. -/
theorem Instr.eq_of_fields : ∀ {i j : Instr}, i.op = j.op → i.len = j.len → i.data = j.data → i = j
  | .enc _ _, .enc _ _, _, rfl, rfl => rfl
  | .dec _ _, .dec _ _, _, rfl, rfl => rfl
  | .sym _ _, .sym _ _, _, rfl, rfl => rfl
  | .val _ _, .val _ _, _, rfl, rfl => rfl

/-- The branches of `decodeReq` by the two bits of `op`. -/
theorem decodeReq_cases (q : ReqWord) :
    (q.extractLsb' 68 2 = 0b00 ∧ decodeReq q = .enc (q.extractLsb' 64 4).toNat (q.extractLsb' 0 64)) ∨
      (q.extractLsb' 68 2 = 0b01 ∧ decodeReq q = .dec (q.extractLsb' 64 4).toNat (q.extractLsb' 0 64)) ∨
      (q.extractLsb' 68 2 = 0b10 ∧ decodeReq q = .sym (q.extractLsb' 64 4).toNat (q.extractLsb' 0 64)) ∨
      (q.extractLsb' 68 2 = 0b11 ∧ decodeReq q = .val (q.extractLsb' 64 4).toNat (q.extractLsb' 0 64)) := by
  have hop : ∀ op : BitVec 2, op = 0b00 ∨ op = 0b01 ∨ op = 0b10 ∨ op = 0b11 := by decide
  obtain h | h | h | h := hop (q.extractLsb' 68 2) <;> simp [decodeReq, h]

@[simp] theorem decodeReq_op (q : ReqWord) : (decodeReq q).op = q.extractLsb' 68 2 := by
  obtain ⟨hop, h⟩ | ⟨hop, h⟩ | ⟨hop, h⟩ | ⟨hop, h⟩ := decodeReq_cases q <;> rw [h, hop] <;> rfl

@[simp] theorem decodeReq_len (q : ReqWord) : (decodeReq q).len = (q.extractLsb' 64 4).toNat := by
  obtain ⟨_, h⟩ | ⟨_, h⟩ | ⟨_, h⟩ | ⟨_, h⟩ := decodeReq_cases q <;> rw [h] <;> rfl

@[simp] theorem decodeReq_data (q : ReqWord) : (decodeReq q).data = q.extractLsb' 0 64 := by
  obtain ⟨_, h⟩ | ⟨_, h⟩ | ⟨_, h⟩ | ⟨_, h⟩ := decodeReq_cases q <;> rw [h] <;> rfl

/-- The word keeps each of the three fields, and a length below 16 fits its four bits. -/
theorem decodeReq_encode {i : Instr} (h : i.WellFormed) : decodeReq (encode i) = i := by
  have hlen : (decodeReq (encode i)).len = i.len := by
    simpa [encode] using Nat.mod_eq_of_lt h
  exact Instr.eq_of_fields (by simp [encode]) hlen (by simp [encode])

/-- Settles O2, field by field. -/
theorem encodedRequestDecodesBack : Obligations.EncodedRequestDecodesBack := fun _ => decodeReq_encode

theorem decodeReq_wellFormed (q : ReqWord) : (decodeReq q).WellFormed := by
  rw [Instr.WellFormed, decodeReq_len]
  exact BitVec.isLt _

@[simp] theorem encode_decodeReq (q : ReqWord) : encode (decodeReq q) = q := by
  rw [encode, decodeReq_op, decodeReq_len, decodeReq_data, BitVec.ofNat_toNat, BitVec.setWidth_eq, reqWord_fields]

/-- Settles O3: `encode` and `decodeReq` are inverse to each other on the well-formed instructions. -/
theorem everyRequestWordHasOneMeaning : Obligations.EveryRequestWordHasOneMeaning := fun q =>
  ⟨decodeReq_wellFormed q, encode_decodeReq q, fun i hwf hq => by rw [← hq, decodeReq_encode hwf]⟩

/-- Settles O1: the six words, bit by bit. -/
theorem knownRequestWordsDecode : Obligations.KnownRequestWordsDecode := by
  unfold Obligations.KnownRequestWordsDecode
  decide

end Sys2Proof

namespace Sys2Proof.Machine

/-- Settles O6: each of the first four spellings is the word of a well-formed request, and `REQ` gives the three fields
as they are. -/
theorem spellingsDenoteRequests : Obligations.SpellingsDenoteRequests := by
  refine ⟨fun bs h => ?_, fun cs h => ?_, fun v => ?_, fun c => ?_, fun op len data => ?_⟩
  · have hlen : bs.length ≤ 5 := of_decide_eq_true h
    exact decodeReq_encode (i := .enc bs.length (payloadOf bs)) (Nat.lt_of_le_of_lt hlen (by decide))
  · have hlen : cs.length ≤ 8 := of_decide_eq_true h
    exact decodeReq_encode (i := .dec cs.length (payloadOf cs)) (Nat.lt_of_le_of_lt hlen (by decide))
  · exact decodeReq_encode (i := .sym 1 (payloadOf [v.setWidth 8])) (show 1 < 16 by decide)
  · exact decodeReq_encode (i := .val 1 (payloadOf [c])) (show 1 < 16 by decide)
  · simp [Spelling.word]

/-- The response word has the layout of a request word (rules R45, R46). -/
theorem Response.word_eq_reqWord (r : Response) : r.word = reqWord r.status r.olen (lanesWord r.out) := rfl

/-- Settles O51: the fields are those of a request word, and the payload is the joined lanes. -/
theorem responseWordFields : Obligations.ResponseWordFields := by
  intro r
  rw [r.word_eq_reqWord, reqWord_op, reqWord_len, reqWord_data]
  exact ⟨rfl, rfl, fun k => lane_lanesWord r.out k.isLt⟩

/-- Settles O11: each of the cases of a step ends in a next state. -/
theorem everyStepIsAnswered : Obligations.EveryStepIsAnswered := by
  intro s
  obtain ⟨_, h⟩ | ⟨_, _, _, ⟨_, h⟩ | ⟨_, _, h⟩ | ⟨_, _, h⟩⟩ := step_cases s <;> exact ⟨_, h⟩

end Sys2Proof.Machine

/-! The nine-byte form of a word (rule R57): its bytes are base 2^8 digits, the highest first. -/

namespace Sys2Proof

@[simp] theorem bytesToNat_concat (bs : List Byte) (b : Byte) :
    bytesToNat (bs ++ [b]) = bytesToNat bs * 256 + b.toNat := by
  simp [bytesToNat]

theorem bytesToNat_eq_ofDigits (bs : List Byte) : bytesToNat bs = Nat.ofDigits 256 (bs.map BitVec.toNat).reverse := by
  induction bs using List.reverseRecOn with
  | nil => rfl
  | append_singleton bs b ih => simp [ih, Nat.ofDigits_cons, Nat.mul_comm, Nat.add_comm]

theorem toNat_lt_of_mem_digits {bs : List Byte} : ∀ d ∈ (bs.map BitVec.toNat).reverse, d < 256 := by
  simpa using fun b _ => b.isLt

theorem bytesToNat_lt (bs : List Byte) : bytesToNat bs < 256 ^ bs.length := by
  simpa [bytesToNat_eq_ofDigits] using Nat.ofDigits_lt_base_pow_length (by decide) (toNat_lt_of_mem_digits (bs := bs))

theorem bytesToNat_cons (b : Byte) (bs : List Byte) :
    bytesToNat (b :: bs) = bytesToNat bs + 256 ^ bs.length * b.toNat := by
  simp [bytesToNat_eq_ofDigits, Nat.ofDigits_append]

/-- Byte strings of one length are told apart by their numbers. -/
theorem bytesToNat_injective {bs cs : List Byte} (hlen : bs.length = cs.length) (h : bytesToNat bs = bytesToNat cs) :
    bs = cs := by
  rw [bytesToNat_eq_ofDigits, bytesToNat_eq_ofDigits] at h
  have hdigits := Nat.ofDigits_inj_of_len_eq (by decide) (by simpa using hlen) toNat_lt_of_mem_digits
    toNat_lt_of_mem_digits h
  exact List.map_injective_iff.mpr (fun _ _ => BitVec.eq_of_toNat_eq) (List.reverse_injective hdigits)

@[simp] theorem wordBytes_length (q : ReqWord) : (wordBytes q).length = 9 := by
  simp [wordBytes]

/-- Byte `k` of the nine-byte form, as a digit. -/
theorem wordByte_toNat (q : ReqWord) (k : Nat) :
    ((q.setWidth 72).extractLsb' (64 - 8 * k) 8).toNat = q.toNat / 2 ^ (64 - 8 * k) % 256 := by
  rw [BitVec.extractLsb'_toNat, BitVec.toNat_setWidth_of_le (by decide), Nat.shiftRight_eq_div_pow]

/-- The first `n` of the nine bytes of a word are its upper bits as a number. -/
theorem bytesToNat_map_wordByte (q : ReqWord) {n : Nat} (hn : n ≤ 9) :
    bytesToNat ((List.range n).map fun k => (q.setWidth 72).extractLsb' (64 - 8 * k) 8) =
      q.toNat / 2 ^ (72 - 8 * n) := by
  induction n with
  | zero => exact (Nat.div_eq_of_lt (q.isLt.trans (by decide))).symm
  | succ n ih =>
    have hdiv : q.toNat / 2 ^ (72 - 8 * n) = q.toNat / 2 ^ (72 - 8 * (n + 1)) / 2 ^ 8 := by
      rw [Nat.div_div_eq_div_mul, ← Nat.pow_add]
      congr 2
      omega
    have hexp : 64 - 8 * n = 72 - 8 * (n + 1) := by omega
    rw [List.range_succ, List.map_append, List.map_singleton, bytesToNat_concat, ih (by omega), hdiv,
      wordByte_toNat, hexp]
    exact Nat.div_add_mod' _ _

@[simp] theorem bytesToNat_wordBytes (q : ReqWord) : bytesToNat (wordBytes q) = q.toNat :=
  (bytesToNat_map_wordByte q le_rfl).trans (Nat.div_one _)

/-- The two bits above the word are 0 in its first byte. -/
theorem wordBytes_headD_lt (q : ReqWord) : ((wordBytes q).headD 0).toNat < 64 := by
  have hhead : ((wordBytes q).headD 0).toNat = q.toNat / 2 ^ 64 % 256 := wordByte_toNat q 0
  have hq := q.isLt
  omega

theorem decodeBytes_of_length_ne {bs : List Byte} (h : bs.length ≠ 9) :
    decodeBytes bs = .error (.wrongLength bs.length) := if_pos h

theorem decodeBytes_of_head_ge {bs : List Byte} (hlen : bs.length = 9) (h : 64 ≤ (bs.headD 0).toNat) :
    decodeBytes bs = .error (.aboveTheWord (bs.headD 0)) := by
  rw [decodeBytes, if_neg (not_not.mpr hlen), if_pos h]

theorem decodeBytes_of_head_lt {bs : List Byte} (hlen : bs.length = 9) (h : (bs.headD 0).toNat < 64) :
    decodeBytes bs = .ok (decodeReq (BitVec.ofNat 70 (bytesToNat bs))) := by
  rw [decodeBytes, if_neg (not_not.mpr hlen), if_neg (Nat.not_le.mpr h)]

theorem decodeBytes_wordBytes (q : ReqWord) : decodeBytes (wordBytes q) = .ok (decodeReq q) := by
  rw [decodeBytes_of_head_lt (wordBytes_length q) (wordBytes_headD_lt q), bytesToNat_wordBytes, BitVec.ofNat_toNat,
    BitVec.setWidth_eq]

theorem bytesToNat_lt_of_head_lt {bs : List Byte} (hlen : bs.length = 9) (h : (bs.headD 0).toNat < 64) :
    bytesToNat bs < 2 ^ 70 := by
  obtain _ | ⟨b, bs⟩ := bs
  · cases hlen
  have htail : bs.length = 8 := Nat.succ.inj hlen
  have hb : b.toNat < 64 := h
  have hbs := bytesToNat_lt bs
  rw [bytesToNat_cons, htail]
  rw [htail] at hbs
  omega

/-- A nine-byte string without a bit above the 70 is the form of the word with its number. -/
theorem wordBytes_ofNat_bytesToNat {bs : List Byte} (hlen : bs.length = 9) (h : (bs.headD 0).toNat < 64) :
    wordBytes (BitVec.ofNat 70 (bytesToNat bs)) = bs := by
  refine bytesToNat_injective ((wordBytes_length _).trans hlen.symm) ?_
  rw [bytesToNat_wordBytes, BitVec.toNat_ofNat, Nat.mod_eq_of_lt (bytesToNat_lt_of_head_lt hlen h)]

/-- Settles O4: the two rejections are the first branches of `decodeBytes`, and on what is left the nine bytes and the
word with their number determine each other. -/
theorem nineByteFormDecodes : Obligations.NineByteFormDecodes :=
  ⟨decodeBytes_wordBytes, fun _ => decodeBytes_of_length_ne, fun _ => decodeBytes_of_head_ge,
    fun bs hlen h =>
      ⟨BitVec.ofNat 70 (bytesToNat bs), wordBytes_ofNat_bytesToNat hlen h, decodeBytes_of_head_lt hlen h⟩⟩

end Sys2Proof

/-! The outcome classes of the lengths (rules R48, R56). -/

namespace Sys2Proof

@[simp] theorem Instr.legalLen_enc {len : Nat} {data : Payload} : (Instr.enc len data).LegalLen = true ↔ len ≤ 5 := by
  simp [Instr.LegalLen]

@[simp] theorem Instr.legalLen_dec {len : Nat} {data : Payload} :
    (Instr.dec len data).LegalLen = true ↔ len ≤ 8 ∧ len ≠ 1 := by
  simp [Instr.LegalLen]

@[simp] theorem Instr.legalLen_sym {len : Nat} {data : Payload} : (Instr.sym len data).LegalLen = true ↔ len = 1 := by
  simp [Instr.LegalLen]

@[simp] theorem Instr.legalLen_val {len : Nat} {data : Payload} : (Instr.val len data).LegalLen = true ↔ len = 1 := by
  simp [Instr.LegalLen]

end Sys2Proof

namespace Sys2Proof.Machine

open Sys2Proof.Safety

/-- Everything `ExecSYM` can answer. -/
theorem symResult_cases (len : Nat) (data : Payload) :
    (len ≠ 1 ∧ symResult len data = .err .badRequest) ∨
      (len = 1 ∧ 32 ≤ (lane data 0).toNat ∧ symResult len data = .err .badRequest) ∨
      (len = 1 ∧ (lane data 0).toNat < 32 ∧ symResult len data = .ok [encRom ((lane data 0).setWidth 5)]) := by
  unfold symResult
  split
  · exact .inl ⟨‹_›, rfl⟩
  · split
    · exact .inr (.inl ⟨by omega, ‹_›, rfl⟩)
    · exact .inr (.inr ⟨by omega, by omega, rfl⟩)

/-- Everything `ExecVAL` can answer. -/
theorem valResult_cases (len : Nat) (data : Payload) :
    (len ≠ 1 ∧ valResult len data = .err .badRequest) ∨
      (len = 1 ∧ decRom (lane data 0) = none ∧ valResult len data = .err .invalidCharacter) ∨
      (len = 1 ∧ ∃ v, decRom (lane data 0) = some v ∧ valResult len data = .ok [v.setWidth 8]) := by
  by_cases hlen : len = 1
  · cases hv : decRom (lane data 0) <;> simp [valResult, hlen, hv]
  · simp [valResult, hlen]

/-- A response has the status of an error exactly when the result is that error. -/
@[simp] theorem respond_status_eq_errCode {r : Result} {s : State} {e : ErrKind} :
    (respond r s).status = errCode e ↔ r = .err e := by
  cases r with
  | ok items => simp [respond_eq, (errCode_ne_statusOk e).symm]
  | err e' => simpa [respond_eq] using ⟨errCode_injective, congrArg errCode⟩

/-- An illegal length is a bad request whatever the payload, but for the one-symbol chunk. -/
theorem requestResult_of_illegalLen {i : Instr} (hlegal : ¬ i.LegalLen = true) (hone : ∀ data, i ≠ .dec 1 data) :
    requestResult i = .err .badRequest := by
  cases i with
  | enc len data => exact if_pos (Nat.not_le.mp (mt Instr.legalLen_enc.mpr hlegal))
  | dec len data =>
    have h1 : len ≠ 1 := fun h => hone data (h ▸ rfl)
    exact if_pos (Nat.not_le.mp fun h8 => hlegal (Instr.legalLen_dec.mpr ⟨h8, h1⟩))
  | sym len data => exact if_pos (mt Instr.legalLen_sym.mpr hlegal)
  | val len data => exact if_pos (mt Instr.legalLen_val.mpr hlegal)

/-- What a request of a legal length can fail with: an invalid character, or the bad request of `SYM`. -/
theorem requestResult_err_of_legalLen {i : Instr} (hlegal : i.LegalLen = true) {e : ErrKind}
    (he : requestResult i = .err e) :
    e = .invalidCharacter ∨ (e = .badRequest ∧ ∃ data, i = .sym 1 data ∧ 32 ≤ (lane data 0).toNat) := by
  cases i with
  | enc len data =>
    have hlen : len ≤ 5 := Instr.legalLen_enc.mp hlegal
    obtain ⟨_, _⟩ | ⟨_, h⟩ | ⟨_, _, h⟩ := encResult_cases len data
    · omega
    · cases h.symm.trans he
    · cases h.symm.trans he
  | dec len data =>
    obtain ⟨hlen, hne⟩ := Instr.legalLen_dec.mp hlegal
    obtain ⟨_, _⟩ | ⟨_, h⟩ | ⟨_, _⟩ | ⟨_, _, _, h⟩ | ⟨_, _, g, _, h⟩ := decResult_cases len data
    · omega
    · cases h.symm.trans he
    · contradiction
    · exact .inl (Result.err.inj (he.symm.trans h))
    · cases h.symm.trans he
  | sym len data =>
    obtain ⟨hne, _⟩ | ⟨rfl, h32, h⟩ | ⟨_, _, h⟩ := symResult_cases len data
    · exact absurd (Instr.legalLen_sym.mp hlegal) hne
    · exact .inr ⟨Result.err.inj (he.symm.trans h), data, rfl, h32⟩
    · cases h.symm.trans he
  | val len data =>
    obtain ⟨hne, _⟩ | ⟨_, _, h⟩ | ⟨_, v, _, h⟩ := valResult_cases len data
    · exact absurd (Instr.legalLen_val.mp hlegal) hne
    · exact .inl (Result.err.inj (he.symm.trans h))
    · cases h.symm.trans he

/-- Length 0 is legal for the chunk operations alone, and is the empty chunk (rules R79, R99). -/
theorem requestResult_of_len_zero {i : Instr} (hlegal : i.LegalLen = true) (hlen : i.len = 0) :
    requestResult i = .ok [] := by
  cases i <;> obtain rfl : _ = 0 := hlen
  case enc | dec => rfl
  case sym | val => cases hlegal

/-- Settles O47: each class of lengths fixes the result, and `exec` answers with the response of the result. -/
theorem lengthOutcomeClasses : Obligations.LengthOutcomeClasses := by
  intro i s
  refine ⟨_, exec_eq_respond i s, fun hillegal hone => ?_, ?_, fun hlegal => ⟨?_, ?_, fun hlen => ?_⟩⟩
  · rw [requestResult_of_illegalLen (Bool.eq_false_iff.mp hillegal) hone]
    exact respond_err_holds .badRequest s
  · rintro data rfl
    exact ⟨rfl, respond_err_holds .malformedChunk s⟩
  · intro hstatus
    obtain h | ⟨h, _⟩ := requestResult_err_of_legalLen hlegal (respond_status_eq_errCode.mp hstatus) <;> cases h
  · intro hstatus
    obtain h | ⟨_, hsym⟩ := requestResult_err_of_legalLen hlegal (respond_status_eq_errCode.mp hstatus)
    · cases h
    · exact hsym
  · rw [requestResult_of_len_zero hlegal hlen]
    exact respond_ok_holds (items := []) (Nat.zero_le 8) s

end Sys2Proof.Machine

/-! The alphabet lookup (rules R65 to R68): `SYM` reads `ENC_ROM`, `VAL` reads `DEC_ROM`, and `DEC` reads each of its
symbols as `VAL` does. -/

namespace Sys2Proof.Machine

open Sys2Proof.Safety

theorem exists_exec_next_iff {i : Instr} {s : State} {P : State → Prop} :
    (∃ t, exec i s = .next t ∧ P t) ↔ P (respond (requestResult i) s) := by
  simp [exec_eq_respond]

@[simp] theorem lane_payloadOf_singleton (c : Byte) : lane (payloadOf [c]) 0 = c :=
  lane_payloadOf [c] (by decide)

/-- The first item of a result is in lane 0 of `OUT` (rule R20). -/
@[simp] theorem respond_out_zero (x : Byte) (xs : List Byte) (s : State) :
    (respond (.ok (x :: xs)) s).out[0] = x := by
  simp [respond_eq]

theorem respond_singleton_holds (x : Byte) (s : State) : HoldsOk [x] (respond (.ok [x]) s) :=
  respond_ok_holds (items := [x]) (show 1 ≤ 8 by decide) s

@[simp] theorem respond_status_eq_statusOk {r : Result} {s : State} :
    (respond r s).status = statusOk ↔ ∃ items, r = .ok items := by
  cases r with
  | ok items => simp [respond_eq]
  | err e => simp [respond_eq, errCode_ne_statusOk]

theorem symResult_of_lane_ge {data : Payload} (h : 32 ≤ (lane data 0).toNat) :
    symResult 1 data = .err .badRequest := by
  simp [symResult, h]

/-- A value below 32 in lane 0 is its own low five bits. -/
theorem symResult_of_lane_eq {data : Payload} {v : Value} (h : (lane data 0).toNat = v.toNat) :
    symResult 1 data = .ok [encRom v] := by
  have hlt : (lane data 0).toNat < 32 := h ▸ v.isLt
  have hv : (lane data 0).setWidth 5 = v := by
    rw [← BitVec.ofNat_toNat, h, BitVec.ofNat_toNat, BitVec.setWidth_eq]
  simp [symResult, hlt, hv]

theorem valResult_of_decRom {data : Payload} {v : Value} (h : decRom (lane data 0) = some v) :
    valResult 1 data = .ok [v.setWidth 8] := by
  simp [valResult, h]

theorem valResult_of_decRom_eq_none {data : Payload} (h : decRom (lane data 0) = none) :
    valResult 1 data = .err .invalidCharacter := by
  simp [valResult, h]

/-- `VAL` of a code succeeds exactly when the code is in the decode table, with the value there. -/
theorem valResult_payloadOf_eq_ok_iff {c : Byte} {items : List Byte} :
    valResult 1 (payloadOf [c]) = .ok items ↔ ∃ v, decRom c = some v ∧ items = [v.setWidth 8] := by
  cases h : decRom c <;> simp [valResult, h, eq_comm]

theorem setWidth_byte_injective : Function.Injective fun v : Value => (v.setWidth 8 : Byte) := fun v w h => by
  simpa using congrArg (BitVec.setWidth 5) h

/-- Settles O38: the answers of `ExecSYM`, one for each clause. -/
theorem symLooksUpTheSymbol : Obligations.SymLooksUpTheSymbol := by
  refine ⟨fun len data s => ⟨_, exec_eq_respond _ s, fun hne => ?_, ?_, ?_⟩, by decide⟩
  · rw [requestResult_of_illegalLen (mt Instr.legalLen_sym.mp hne) (by simp)]
    exact respond_err_holds .badRequest s
  · rintro rfl h32
    rw [requestResult, symResult_of_lane_ge h32]
    exact respond_err_holds .badRequest s
  · rintro rfl v hv
    rw [requestResult, symResult_of_lane_eq hv]
    exact respond_singleton_holds _ s

/-- Settles O39: the answers of `ExecVAL`, one for each clause; an uppercase letter is in row 4_ or 5_ of the grid. -/
theorem valLooksUpTheValue : Obligations.ValLooksUpTheValue := by
  refine ⟨fun len data s => ⟨_, exec_eq_respond _ s, fun hne => ?_, ?_, ?_⟩, by decide,
    fun c h41 h5a => decRom_add_caseBit c (by omega) (by omega), by decide⟩
  · rw [requestResult_of_illegalLen (mt Instr.legalLen_val.mp hne) (by simp)]
    exact respond_err_holds .badRequest s
  · rintro rfl hnone
    rw [requestResult, valResult_of_decRom_eq_none hnone]
    exact respond_err_holds .invalidCharacter s
  · rintro rfl v hv
    rw [requestResult, valResult_of_decRom hv, BitVec.ofNat_toNat]
    exact respond_singleton_holds _ s

theorem requestResult_sym_value (v : Value) :
    requestResult (.sym 1 (payloadOf [v.setWidth 8])) = .ok [encRom v] :=
  symResult_of_lane_eq (by rw [lane_payloadOf_singleton, BitVec.toNat_setWidth_of_le (by decide)])

theorem requestResult_val_of_decRom {c : Byte} {v : Value} (h : decRom c = some v) :
    requestResult (.val 1 (payloadOf [c])) = .ok [v.setWidth 8] :=
  valResult_of_decRom (by rw [lane_payloadOf_singleton, h])

/-- One bit tells an uppercase letter from its lowercase one (rule R14 (e)). -/
theorem add_caseBit_eq_or_of_uppercase : ∀ c : Byte, 0x41 ≤ c.toNat → c.toNat ≤ 0x5a → c + 0x20 = c ||| 0x20 := by
  decide

theorem canonicalForm_of_uppercase {c : Byte} (h41 : 0x41 ≤ c.toNat) (h5a : c.toNat ≤ 0x5a)
    (hmem : c ||| 0x20 ∈ encRomTable) : canonicalForm c = some (c ||| 0x20) := by
  have hcase : decRom c = decRom (c ||| 0x20) := by
    rw [← add_caseBit_eq_or_of_uppercase c h41 h5a]
    exact decRom_add_caseBit c (by omega) (by omega)
  rw [canonicalForm, hcase]
  exact canonicalForm_of_mem_encRomTable _ hmem

/-- Settles O40: each operation gets from lane 0 what the other left there, and `DEC_ROM` undoes `ENC_ROM`. -/
theorem valUndoesSym : Obligations.ValUndoesSym := by
  refine ⟨fun v s => ?_, fun c v s hv => ?_, by decide, by decide, fun _ => canonicalForm_of_uppercase⟩
  · refine ⟨_, _, exec_eq_respond _ s, exec_eq_respond _ _, ?_⟩
    rw [requestResult_sym_value, respond_out_zero, requestResult_val_of_decRom (decRom_encRom v)]
    exact respond_singleton_holds _ _
  · refine ⟨_, _, exec_eq_respond _ s, ?_, exec_eq_respond _ _, ?_, encRom_eq_iff_mem_encRomTable hv⟩
    · rw [requestResult_val_of_decRom hv]
      exact respond_status_eq_statusOk.mpr ⟨_, rfl⟩
    · rw [requestResult_val_of_decRom hv, respond_out_zero, requestResult_sym_value]
      exact respond_singleton_holds _ _

/-- `VAL` accepts exactly the codes of the decode table. -/
theorem val_accepts_iff {c : Byte} {s : State} :
    (∃ u, exec (.val 1 (payloadOf [c])) s = .next u ∧ u.status = statusOk) ↔ decRom c ≠ none := by
  rw [exists_exec_next_iff, respond_status_eq_statusOk, Option.ne_none_iff_exists']
  exact ⟨fun ⟨_, h⟩ => (valResult_payloadOf_eq_ok_iff.mp h).imp fun _ => And.left,
    fun ⟨_, h⟩ => ⟨_, requestResult_val_of_decRom h⟩⟩

/-- The value `VAL` returns is the one in the decode table. -/
theorem decRom_of_val_holds {c : Byte} {v : Value} {s : State}
    (h : ∃ u, exec (.val 1 (payloadOf [c])) s = .next u ∧ HoldsOk [v.setWidth 8] u) : decRom c = some v := by
  obtain ⟨_, hstatus, _, hout⟩ := exists_exec_next_iff.mp h
  obtain ⟨items, hitems⟩ := respond_status_eq_statusOk.mp hstatus
  obtain ⟨w, hw, rfl⟩ := valResult_payloadOf_eq_ok_iff.mp hitems
  have hlane : (w.setWidth 8 : Byte) = v.setWidth 8 := by
    simpa [hitems] using hout 0 Nat.one_pos
  rw [hw, setWidth_byte_injective hlane]

/-- The scan answers with the values of the symbols. -/
theorem lookupAll_of_map_decRom {S : List Byte} {g : List Value} (h : S.map decRom = g.map some) :
    lookupAll S = some g := by
  induction S generalizing g with
  | nil => cases g <;> simp_all [lookupAll]
  | cons c cs ih =>
    cases g with
    | nil => simp at h
    | cons v vs =>
      obtain ⟨hv, hvs⟩ := List.cons.inj h
      simp [lookupAll, hv, ih hvs]

theorem lookupAll_lanes_eq_some {len : Nat} {data : Payload} {g : List Value} (hlen : g.length = len)
    (h : ∀ k < len, decRom (lane data k) = some (g.getD k 0)) : lookupAll (lanes data len) = some g := by
  refine lookupAll_of_map_decRom (List.ext_getElem (by simp [hlen]) fun k hk hk' => ?_)
  have hkl : k < len := by simpa using hk
  simpa [lanes, hlen, hkl] using h k hkl

theorem lookupAll_lanes_ne_none {len : Nat} {data : Payload} :
    lookupAll (lanes data len) ≠ none ↔ ∀ k < len, decRom (lane data k) ≠ none := by
  simp [lookupAll_eq_none, lanes]

/-- On a chunk of 2 to 8 symbols `DEC` succeeds exactly when the scan does, with the bytes of its values. -/
theorem decResult_eq_ok_iff {len : Nat} {data : Payload} {items : List Byte} (h2 : 2 ≤ len) (h8 : len ≤ 8) :
    decResult len data = .ok items ↔ ∃ g, lookupAll (lanes data len) = some g ∧ items = unpackBytes g := by
  obtain ⟨_, _⟩ | ⟨_, _⟩ | ⟨_, _⟩ | ⟨_, _, hg, h⟩ | ⟨_, _, g, hg, h⟩ := decResult_cases len data
  · omega
  · omega
  · omega
  · simp [hg, h]
  · simp [hg, h, eq_comm]

/-- `DEC` of 2 to 8 symbols accepts exactly the chunks whose symbols are all in the decode table. -/
theorem dec_accepts_iff {len : Nat} {data : Payload} {s : State} (h2 : 2 ≤ len) (h8 : len ≤ 8) :
    (respond (decResult len data) s).status = statusOk ↔ ∀ k < len, decRom (lane data k) ≠ none := by
  rw [← lookupAll_lanes_ne_none, Option.ne_none_iff_exists', respond_status_eq_statusOk]
  simp only [decResult_eq_ok_iff h2 h8]
  exact ⟨fun ⟨_, g, hg, _⟩ => ⟨g, hg⟩, fun ⟨g, hg⟩ => ⟨_, g, hg, rfl⟩⟩

/-- Settles O35: both operations read the same entry of the decode table for a symbol. -/
theorem decReadsSymbolsAsValDoes : Obligations.DecReadsSymbolsAsValDoes := by
  intro len data s h2 h8
  refine ⟨_, exec_eq_respond _ s, ?_, fun vs hlen hvals => ?_⟩
  · simp only [val_accepts_iff]
    exact dec_accepts_iff h2 h8
  · have hscan : lookupAll (lanes data len) = some vs :=
      lookupAll_lanes_eq_some hlen fun k hk => decRom_of_val_holds (hvals k hk)
    have hdec : requestResult (.dec len data) = .ok (unpackBytes vs) :=
      (decResult_eq_ok_iff h2 h8).mpr ⟨vs, hscan, rfl⟩
    have hle : (unpackBytes vs).length ≤ 8 := by
      rw [unpackBytes_length, decLength, hlen]
      omega
    rw [hdec]
    exact respond_ok_holds hle s

end Sys2Proof.Machine

/-! The packings of a chunk as numerals (rules R75, R81, R90): the items a chunk does not fill are zero digits, so the integer
of a chunk is a multiple of a power of 2, and such an integer is the one of its leading digits. -/

namespace Sys2Proof.Machine

/-- The numeral of the `n` lowest digits of a number is its remainder. -/
theorem ofDigits_map_div_pow_mod (b N n : Nat) :
    Nat.ofDigits b ((List.range n).map fun i => N / b ^ i % b) = N % b ^ n := by
  induction n with
  | zero => simp [Nat.mod_one]
  | succ n ih => simp [List.range_succ, Nat.ofDigits_append, ih, Nat.mod_pow_succ]

/-- The low bits of a digit are 0 where the number's bits are. -/
theorem two_pow_dvd_div_mod {N i e w : Nat} (he : e ≤ w) (h : 2 ^ (i + e) ∣ N) : 2 ^ e ∣ N / 2 ^ i % 2 ^ w :=
  (Nat.dvd_mod_iff (Nat.pow_dvd_pow 2 he)).mpr (Nat.dvd_div_of_mul_dvd (Nat.pow_add 2 i e ▸ h))

theorem getD_append_replicate {α : Type} (l : List α) (n k : Nat) (d : α) :
    (l ++ List.replicate n d).getD k d = l.getD k d := by
  by_cases h : k < l.length
  · exact List.getD_append _ _ _ _ h
  · rw [List.getD_append_right _ _ _ _ (by omega)]
    simp [List.getElem?_eq_none (Nat.le_of_not_lt h)]

section
variable {w m n N : Nat}

/-- A chunk of at most `m + 1` digits, read with a zero digit in each position it does not fill. -/
theorem two_pow_dvd_ofDigits_getD (l : List (BitVec w)) (h : l.length ≤ m + 1) :
    2 ^ (w * (m + 1) - w * l.length) ∣
      Nat.ofDigits (2 ^ w) ((List.range (m + 1)).map fun i => (l.getD (m - i) 0).toNat) := by
  have hlt : ∀ d ∈ (List.range (m + 1)).map fun i => (l.getD (m - i) 0).toNat, d < 2 ^ w := by simp [BitVec.isLt]
  have hzero : (List.range (m + 1 - l.length)).map (fun i => (l.getD (m - i) 0).toNat) =
      List.replicate (m + 1 - l.length) 0 := by
    refine List.eq_replicate_iff.mpr ⟨by simp, fun d hd => ?_⟩
    obtain ⟨i, hi, rfl⟩ := List.mem_map.mp hd
    have hi := List.mem_range.mp hi
    rw [List.getD_eq_default _ _ (by omega)]
    rfl
  rw [← Nat.mul_sub, Nat.pow_mul, Nat.dvd_iff_mod_eq_zero,
    Nat.ofDigits_mod_pow_eq_ofDigits_take _ (Nat.two_pow_pos w) _ hlt, ← List.map_take, List.take_range,
    Nat.min_eq_left (by omega), hzero]
  exact Nat.ofDigits_append_replicate_zero []

variable {digit : Nat → BitVec w} (hdigit : ∀ j, (digit j).toNat = N / (2 ^ w) ^ (m - j) % 2 ^ w)
include hdigit

theorem two_pow_dvd_digit {j e : Nat} (he : e ≤ w) (h : 2 ^ (w * (m - j) + e) ∣ N) : 2 ^ e ∣ (digit j).toNat := by
  rw [hdigit, ← Nat.pow_mul]
  exact two_pow_dvd_div_mod he h

/-- The digits of a multiple of a power of 2 end in zeros. -/
theorem digit_eq_zero {j : Nat} (h : 2 ^ (w * (m + 1) - w * n) ∣ N) (hn : n ≤ j) (hj : j ≤ m) : digit j = 0 := by
  have hexp : w * (m - j) + w ≤ w * (m + 1) - w * n := by
    rw [← Nat.mul_sub, ← Nat.mul_succ]
    exact Nat.mul_le_mul_left w (by omega)
  have hdvd := two_pow_dvd_digit hdigit le_rfl ((Nat.pow_dvd_pow 2 hexp).trans h)
  exact BitVec.eq_of_toNat_eq (Nat.eq_zero_of_dvd_of_lt hdvd (digit j).isLt)

/-- A multiple of a power of 2 is the numeral of its leading digits. -/
theorem ofDigits_getD_map_digit (hN : N < 2 ^ (w * (m + 1))) (h : 2 ^ (w * (m + 1) - w * n) ∣ N) :
    Nat.ofDigits (2 ^ w) ((List.range (m + 1)).map fun i => (((List.range n).map digit).getD (m - i) 0).toNat) = N := by
  have hget : ∀ j ≤ m, ((List.range n).map digit).getD j 0 = digit j := fun j hj => by
    by_cases hjn : j < n
    · simp [hjn]
    · rw [List.getD_eq_default _ _ (by simpa using hjn), digit_eq_zero hdigit h (by omega) hj]
  have hdigits : ∀ i ∈ List.range (m + 1),
      (((List.range n).map digit).getD (m - i) 0).toNat = N / (2 ^ w) ^ i % 2 ^ w := fun i hi => by
    have hi := List.mem_range.mp hi
    rw [hget _ (by omega), hdigit, Nat.sub_sub_self (by omega)]
  rw [List.map_congr_left hdigits, ofDigits_map_div_pow_mod, ← Nat.pow_mul, Nat.mod_eq_of_lt hN]

end

@[simp] theorem packBytes_padBytes (B : List Byte) : packBytes (padBytes B) = packBytes B := by
  simp only [packBytes, padBytes, getD_append_replicate]

@[simp] theorem packGroups_padGroups (g : List Value) : packGroups (padGroups g) = packGroups g := by
  simp only [packGroups, padGroups, getD_append_replicate]

theorem two_pow_dvd_packBytes {B : List Byte} (h : B.length ≤ 5) : 2 ^ (40 - 8 * B.length) ∣ packBytes B := by
  rw [packBytes_eq_ofDigits]
  exact two_pow_dvd_ofDigits_getD (m := 4) B h

theorem two_pow_dvd_packGroups {g : List Value} (h : g.length ≤ 8) : 2 ^ (40 - 5 * g.length) ∣ packGroups g := by
  rw [packGroups_eq_ofDigits]
  exact two_pow_dvd_ofDigits_getD (m := 7) g h

theorem packBytes_map_byteAt {N n : Nat} (hN : N < 2 ^ 40) (h : 2 ^ (40 - 8 * n) ∣ N) :
    packBytes ((List.range n).map (byteAt N)) = N := by
  rw [packBytes_eq_ofDigits]
  exact ofDigits_getD_map_digit (byteAt_toNat N) hN h

theorem packGroups_map_groupAt {N n : Nat} (hN : N < 2 ^ 40) (h : 2 ^ (40 - 5 * n) ∣ N) :
    packGroups ((List.range n).map (groupAt N)) = N := by
  rw [packGroups_eq_ofDigits]
  exact ofDigits_getD_map_digit (groupAt_toNat N) hN h

theorem map_byteAt_packBytes {B : List Byte} (h : B.length ≤ 5) :
    (List.range B.length).map (byteAt (packBytes B)) = B := by
  refine List.ext_getElem (by simp) fun j _ hj => ?_
  rw [List.getElem_map, List.getElem_range, byteAt_packBytes B (by omega), List.getD_eq_getElem _ _ hj]

theorem map_groupAt_packGroups {g : List Value} (h : g.length ≤ 8) :
    (List.range g.length).map (groupAt (packGroups g)) = g := by
  refine List.ext_getElem (by simp) fun k _ hk => ?_
  rw [List.getElem_map, List.getElem_range, groupAt_packGroups g (by omega), List.getD_eq_getElem _ _ hk]

/-! The two formulations of the groups (rule R81). -/

/-- The right-to-left rounds leave the digits of the integer, the last one first found. -/
theorem divisionGroups_eq (t r : Nat) (acc : List Value) :
    divisionGroups t r acc = ((List.range t).reverse.map fun i => BitVec.ofNat 5 (r / 32 ^ i % 32)) ++ acc := by
  induction t generalizing r acc with
  | zero => rfl
  | succ t ih =>
    simp [divisionGroups, ih, List.range_succ_eq_map, Nat.div_div_eq_div_mul, Nat.pow_succ', Function.comp_def]

theorem groupsByDivision_eq (N : Nat) : groupsByDivision N = (List.range 8).map (groupAt N) := by
  rw [groupsByDivision, divisionGroups_eq, List.append_nil]
  refine List.ext_getElem (by simp) fun k hk _ => BitVec.eq_of_toNat_eq ?_
  simp [groupAt_toNat]

/-- Settles O22: the rounds of division find the digits that shift and mask select, and a numeral is its digits. -/
theorem groupFormulationsAgree : Obligations.GroupFormulationsAgree := by
  intro N hN
  rw [groupsByDivision_eq]
  refine ⟨rfl, Nat.div_eq_of_lt hN, packGroups_map_groupAt hN (one_dvd N), fun g hg hpack => ?_⟩
  rw [← hpack, ← hg]
  exact (map_groupAt_packGroups (le_of_eq hg)).symm

end Sys2Proof.Machine

/-! The chunk encoder and decoder on groups (rules R75, R77, R90, R96, R97, R102). -/

namespace Sys2Proof.Machine

/-- The leading `ceil(8*L/5)` groups of a chunk of bytes (rule R75). -/
def encGroups (B : List Byte) : List Value :=
  (List.range (encLength B.length)).map (groupAt (packBytes B))

@[simp] theorem encGroups_length (B : List Byte) : (encGroups B).length = encLength B.length := by
  simp [encGroups]

theorem encSymbols_eq_map_encRom (B : List Byte) :
    encSymbols B = ((List.range 8).map (groupAt (packBytes B))).map encRom := by
  rw [encSymbols, packBytes_padBytes, List.map_map]
  rfl

/-- The encoder's result is its leading groups as canonical symbols. -/
theorem encChunk_eq_map_encRom {B : List Byte} (h : B.length ≤ 5) : encChunk B = (encGroups B).map encRom := by
  rw [encChunk, encSymbols_eq_map_encRom, ← List.map_take, ← List.map_take, List.take_range,
    Nat.min_eq_left (encLength_le _ h), encGroups]

@[simp] theorem encChunk_length {B : List Byte} (h : B.length ≤ 5) : (encChunk B).length = encLength B.length := by
  rw [encChunk_eq_map_encRom h, List.length_map, encGroups_length]

theorem encChunk_length_le (B : List Byte) : (encChunk B).length ≤ 8 :=
  (List.length_take_le' _ _).trans_eq (encSymbols_length B)

theorem encChunk_getD {B : List Byte} {k : Nat} (h : B.length ≤ 5) (hk : k < encLength B.length) :
    (encChunk B).getD k 0 = encRom (groupAt (packBytes B) k) := by
  rw [encChunk_eq_map_encRom h, encGroups, List.getD_eq_getElem?_getD, List.getElem?_map, List.getElem?_map,
    List.getElem?_range hk, Option.map_some, Option.map_some, Option.getD_some]

theorem encChunk_take {B : List Byte} {n : Nat} (h : B.length ≤ 5) (hn : n ≤ encLength B.length) :
    (encChunk B).take n = ((List.range n).map (groupAt (packBytes B))).map encRom := by
  rw [encChunk_eq_map_encRom h, encGroups, ← List.map_take, ← List.map_take, List.take_range, Nat.min_eq_left hn]

theorem unpackBytes_eq (g : List Value) :
    unpackBytes g = (List.range (decLength g.length)).map (byteAt (packGroups g)) := by
  rw [unpackBytes, packGroups_padGroups]

/-- An encoder's symbols look up to their groups (rule R14 (b)). -/
@[simp] theorem lookupAll_map_encRom (g : List Value) : lookupAll (g.map encRom) = some g :=
  lookupAll_of_map_decRom (by simp)

/-- A scanned chunk is the canonical symbols of its values exactly when its symbols are all canonical. -/
theorem map_encRom_eq_iff {S : List Byte} {g : List Value} (h : lookupAll S = some g) :
    g.map encRom = S ↔ ∀ c ∈ S, c ∈ encRomTable := by
  induction S generalizing g with
  | nil =>
    obtain rfl := Option.some.inj h
    simp
  | cons c cs ih =>
    cases hc : decRom c with
    | none => simp [lookupAll, hc] at h
    | some v =>
      simp only [lookupAll, hc, Option.map_eq_some_iff] at h
      obtain ⟨vs, hvs, rfl⟩ := h
      rw [List.map_cons, List.cons.injEq, encRom_eq_iff_mem_encRomTable hc, ih hvs, List.forall_mem_cons]

theorem decChunk_eq_ok_iff {S B : List Byte} :
    decChunk S = .ok B ↔ S.length ≠ 1 ∧ ∃ g, lookupAll S = some g ∧ unpackBytes g = B := by
  unfold decChunk
  split
  · simp [*]
  · cases lookupAll S <;> simp [*]

/-- The bytes of a chunk end above the groups the encoder leaves out. -/
theorem two_pow_encLength_dvd_packBytes {B : List Byte} (h : B.length ≤ 5) :
    2 ^ (40 - 5 * encLength B.length) ∣ packBytes B := by
  have hexp : 40 - 5 * encLength B.length ≤ 40 - 8 * B.length := by
    unfold encLength
    omega
  exact (Nat.pow_dvd_pow 2 hexp).trans (two_pow_dvd_packBytes h)

/-- The encoder's groups keep the whole integer. -/
theorem packGroups_encGroups {B : List Byte} (h : B.length ≤ 5) : packGroups (encGroups B) = packBytes B :=
  packGroups_map_groupAt (packBytes_lt B) (two_pow_encLength_dvd_packBytes h)

theorem two_le_encLength {L : Nat} (h : 1 ≤ L) : 2 ≤ encLength L := by
  unfold encLength
  omega

theorem decLength_encLength (L : Nat) : decLength (encLength L) = L := by
  unfold decLength encLength
  omega

/-- The bytes of an encoder's groups are the chunk (rule R102). -/
theorem unpackBytes_encGroups {B : List Byte} (h : B.length ≤ 5) : unpackBytes (encGroups B) = B := by
  rw [unpackBytes_eq, packGroups_encGroups h, encGroups_length, decLength_encLength]
  exact map_byteAt_packBytes h

theorem decChunk_encChunk {B : List Byte} (h1 : 1 ≤ B.length) (h5 : B.length ≤ 5) : decChunk (encChunk B) = .ok B := by
  refine decChunk_eq_ok_iff.mpr ⟨?_, encGroups B, ?_, unpackBytes_encGroups h5⟩
  · rw [encChunk_length h5]
    exact Nat.ne_of_gt (two_le_encLength h1)
  · rw [encChunk_eq_map_encRom h5, lookupAll_map_encRom]

/-- The residual bits are 0 exactly when the integer is a multiple of the last byte's place (rule R97). -/
theorem residualBits_eq_zero_iff {g : List Value} (h : g.length ≤ 8) :
    residualBits g = 0 ↔ 2 ^ (40 - 8 * decLength g.length) ∣ packGroups g := by
  have hexp : 40 - 8 * decLength g.length = 40 - 5 * g.length + 5 * g.length % 8 := by
    unfold decLength
    omega
  rw [residualBits, packGroups_padGroups, ← Nat.dvd_iff_mod_eq_zero, hexp, Nat.pow_add,
    Nat.dvd_div_iff_mul_dvd (two_pow_dvd_packGroups h)]

/-- Bytes without residual bits keep the whole integer. -/
theorem packBytes_unpackBytes {g : List Value} (h : 2 ^ (40 - 8 * decLength g.length) ∣ packGroups g) :
    packBytes (unpackBytes g) = packGroups g := by
  rw [unpackBytes_eq]
  exact packBytes_map_byteAt (packGroups_lt g) h

theorem unpackBytes_length_le {g : List Value} (h : g.length ≤ 8) : (unpackBytes g).length ≤ 5 := by
  rw [unpackBytes_length, decLength]
  omega

theorem encLength_decLength_iff {M : Nat} (h2 : 2 ≤ M) (h8 : M ≤ 8) :
    encLength (decLength M) = M ↔ M ∈ [2, 4, 5, 7, 8] := by
  interval_cases M <;> decide

/-- Encoding the bytes of a chunk of groups gives the groups back exactly when the encoder emits as many and there are no
residual bits. -/
theorem encGroups_unpackBytes_iff {g : List Value} (h : g.length ≤ 8) :
    encGroups (unpackBytes g) = g ↔ encLength (decLength g.length) = g.length ∧ residualBits g = 0 := by
  rw [residualBits_eq_zero_iff h]
  constructor
  · intro heq
    have hlen : encLength (decLength g.length) = g.length := by
      simpa using congrArg List.length heq
    have hle := unpackBytes_length_le h
    refine ⟨hlen, ?_⟩
    have hdvd := two_pow_dvd_packBytes hle
    rwa [← packGroups_encGroups hle, heq, unpackBytes_length] at hdvd
  · rintro ⟨hlen, hres⟩
    rw [encGroups, packBytes_unpackBytes hres, unpackBytes_length, hlen]
    exact map_groupAt_packGroups h

/-- An encoder's result is a scanned chunk exactly when the groups are its values and its symbols are canonical. -/
theorem encChunk_eq_iff {S B : List Byte} {g : List Value} (hg : lookupAll S = some g) (h : B.length ≤ 5) :
    encChunk B = S ↔ encGroups B = g ∧ ∀ c ∈ S, c ∈ encRomTable := by
  rw [encChunk_eq_map_encRom h, ← map_encRom_eq_iff hg]
  refine ⟨fun hS => ?_, fun ⟨heq, hS⟩ => heq ▸ hS⟩
  have heq : encGroups B = g := by
    rw [← Option.some_inj, ← hg, ← hS, lookupAll_map_encRom]
  exact ⟨heq, heq ▸ hS⟩

/-- Settles O36: both directions go through the groups, whose integer is kept by the encoder always and by the decoder when
there are no residual bits. -/
theorem chunkRoundTrip : Obligations.ChunkRoundTrip := by
  refine ⟨fun B => decChunk_encChunk, fun S B h1 h8 hdec => ?_⟩
  obtain ⟨hne, g, hg, rfl⟩ := decChunk_eq_ok_iff.mp hdec
  have hlen : g.length = S.length := lookupAll_length hg
  have hresidual : (∃ G, lookupAll S = some G ∧ residualBits G = 0) ↔ residualBits g = 0 := by simp [hg]
  rw [encChunk_eq_iff hg (unpackBytes_length_le (by omega)), encGroups_unpackBytes_iff (by omega), hlen,
    encLength_decLength_iff (by omega) h8, hresidual]
  exact and_comm

end Sys2Proof.Machine

/-! The operation `ENC` (rules R75 to R83). -/

namespace Sys2Proof.Machine

open Sys2Proof.Safety

theorem groupAt_eq (N k : Nat) : groupAt N k = BitVec.ofNat 5 (N / 2 ^ (35 - 5 * k) % 32) := by
  rw [groupAt, Nat.and_two_pow_sub_one_eq_mod _ 5, Nat.shiftRight_eq_div_pow]

theorem toNat_append_eq_add {m n : Nat} (x : BitVec m) (y : BitVec n) : (x ++ y).toNat = x.toNat * 2 ^ n + y.toNat := by
  rw [BitVec.toNat_append, ← Nat.shiftLeft_add_eq_or_of_lt y.isLt, Nat.shiftLeft_eq]

/-- Each group is sliced from the bytes as the table of rule R82 says. -/
theorem groupAt_packBytes (B : List Byte) {k : Nat} (hk : k < 8) : groupAt (packBytes B) k = encGroupLayout B k := by
  have hbyte : ∀ j, (B.getD j 0).toNat < 256 := fun j => (B.getD j 0).isLt
  have h0 := hbyte 0
  have h1 := hbyte 1
  have h2 := hbyte 2
  have h3 := hbyte 3
  have h4 := hbyte 4
  apply BitVec.eq_of_toNat_eq
  rw [groupAt_toNat, packBytes]
  interval_cases k <;>
    simp only [encGroupLayout, toNat_append_eq_add, BitVec.extractLsb'_toNat, Nat.shiftRight_eq_div_pow] <;> omega

/-- A group reads no byte at or beyond `j` when its bits end before that byte. -/
theorem encGroupLayout_congr {B C : List Byte} {j k : Nat} (hk : k < 8) (hj : 5 * k + 5 ≤ 8 * j)
    (h : ∀ i < j, B.getD i 0 = C.getD i 0) : encGroupLayout B k = encGroupLayout C k := by
  interval_cases k <;> simp (disch := omega) only [encGroupLayout, h]

@[simp] theorem encChunk_nil : encChunk [] = [] :=
  List.eq_nil_of_length_eq_zero (encChunk_length (Nat.zero_le 5))

/-- The empty chunk is no exception (rule R79): it has no symbols. -/
theorem encResult_of_le {len : Nat} (data : Payload) (h5 : len ≤ 5) :
    encResult len data = .ok (encChunk (lanes data len)) := by
  obtain ⟨_, _⟩ | ⟨rfl, h⟩ | ⟨_, _, h⟩ := encResult_cases len data
  · omega
  · rw [h, ← encChunk_nil]
    rfl
  · exact h

/-- `ENC` holds the symbols of a chunk of at most 5 bytes. -/
theorem encResult_holds {len : Nat} (data : Payload) (s : State) (h5 : len ≤ 5) :
    HoldsOk (encChunk (lanes data len)) (respond (encResult len data) s) := by
  rw [encResult_of_le data h5]
  exact respond_ok_holds (encChunk_length_le _) s

/-- The same, lane by lane: `OLEN`, and the group each lane is the symbol of. -/
theorem exec_enc_lanes {len : Nat} (data : Payload) (s : State) (h5 : len ≤ 5) :
    ∃ t : State, exec (.enc len data) s = .next t ∧ t.rvalid = true ∧ t.status = statusOk ∧
      t.olen.toNat = encLength len ∧
      ∀ k : Fin 8, k.val < encLength len → t.out[k] = encRom (groupAt (packBytes (lanes data len)) k) := by
  have hlen : (lanes data len).length ≤ 5 := (lanes_length data len).trans_le h5
  obtain ⟨hrvalid, hstatus, holen, hout⟩ := encResult_holds data s h5
  rw [encChunk_length hlen, lanes_length] at holen hout
  refine ⟨_, exec_eq_respond _ s, hrvalid, hstatus, holen, fun k hk => ?_⟩
  rw [requestResult, hout k hk]
  exact encChunk_getD hlen (by rwa [lanes_length])

/-- The big-endian integer of the first lanes of a payload, a lane beyond them counting as 0 (rule R75). -/
theorem packBytes_lanes (len : Nat) (data : Payload) {p : Nat → Nat}
    (hp : ∀ j, p j = if j < len then (lane data j).toNat else 0) :
    packBytes (lanes data len) = p 0 * 2 ^ 32 + p 1 * 2 ^ 24 + p 2 * 2 ^ 16 + p 3 * 2 ^ 8 + p 4 := by
  have hbyte : ∀ j, ((lanes data len).getD j 0).toNat = p j := fun j => by
    rw [hp, List.getD_eq_getElem?_getD, lanes_getElem?]
    split <;> rfl
  simp only [packBytes, hbyte]

/-- Settles O17: the answers of `ExecENC`, one for each clause. -/
theorem encPacksBytesIntoSymbols : Obligations.EncPacksBytesIntoSymbols := by
  intro len data s
  by_cases h5 : len ≤ 5
  · obtain ⟨t, hexec, hrvalid, hstatus, holen, hout⟩ := exec_enc_lanes data s h5
    refine ⟨t, hexec, fun h6 => by omega, ?_, fun _ _ p hp => ⟨hrvalid, hstatus, holen, fun k hk => ?_⟩⟩
    · rintro rfl
      exact ⟨hrvalid, hstatus, holen, fun k hk => absurd hk k.val.not_lt_zero⟩
    · rw [hout k (holen ▸ hk), groupAt_eq, packBytes_lanes len data hp]
  · refine ⟨_, exec_eq_respond _ s, fun h6 => ?_, fun h0 => by omega, fun _ hle => absurd hle h5⟩
    rw [requestResult, encResult, if_pos h6]
    exact respond_err_holds .badRequest s

/-- The presence column of the table of rule R82. -/
theorem lt_encLength_iff : ∀ len ≤ 5, 1 ≤ len → ∀ k : Fin 8,
    k.val < encLength len ↔ [1, 1, 2, 2, 3, 4, 4, 5].getD k.val 0 ≤ len := by decide

/-- Settles O18: each lane is the symbol of its group, and the group is the table's. -/
theorem encFollowsTheBitLayout : Obligations.EncFollowsTheBitLayout := by
  intro len data s h1 h5
  obtain ⟨t, hexec, hrvalid, hstatus, holen, hout⟩ := exec_enc_lanes data s h5
  refine ⟨t, hexec, hrvalid, hstatus, fun k => ?_, fun k hk => ?_⟩
  · rw [holen, lt_encLength_iff len h5 h1 k]
  · rw [hout k (holen ▸ hk), groupAt_packBytes _ k.isLt]

/-- The table of rule R77. -/
theorem encLength_table : ∀ len ≤ 5, encLength len = [0, 2, 4, 5, 7, 8].getD len 0 ∧
    5 * encLength len = 8 * len + [0, 2, 4, 1, 3, 0].getD len 0 := by decide

/-- Settles O19: the last symbol's low bits are bits of the integer below those of the last byte. -/
theorem encOutputLengthTable : Obligations.EncOutputLengthTable := by
  intro len data s h5
  obtain ⟨t, hexec, hrvalid, hstatus, holen, hout⟩ := exec_enc_lanes data s h5
  obtain ⟨htable, hpad⟩ := encLength_table len h5
  have hdvd : 2 ^ (40 - 8 * len) ∣ packBytes (lanes data len) := by
    simpa [h5] using two_pow_dvd_packBytes (B := lanes data len)
  refine ⟨t, hexec, hrvalid, hstatus, holen.trans htable, holen, holen ▸ hpad, fun k hk => ?_⟩
  rw [holen] at hk ⊢
  refine ⟨_, hout k (by omega), Nat.mod_eq_zero_of_dvd ?_⟩
  have hlast : 5 * encLength len - 8 * len ≤ 5 := by
    unfold encLength
    omega
  refine two_pow_dvd_digit (groupAt_toNat _) hlast ((Nat.pow_dvd_pow 2 ?_).trans hdvd)
  unfold encLength at hk ⊢
  omega

/-- Settles O20: `ExecENC` reads the payload by its first `len` lanes alone. -/
theorem encIgnoresUnusedLanes : Obligations.EncIgnoresUnusedLanes := by
  intro len d d' _ hagree
  have hres : encResult len d = encResult len d' := by
    rw [encResult, encResult, lanes_congr hagree]
  refine ⟨hres, fun s => ?_⟩
  rw [exec_eq_respond, exec_eq_respond, requestResult, requestResult, hres]

/-- Settles O21: the bytes end above the groups beyond the output length, which are 0. -/
theorem encTrailingSymbolsAreZero : Obligations.EncTrailingSymbolsAreZero := by
  intro B _ h5
  refine ⟨fun k hk hk8 => ?_, encChunk_length h5, rfl⟩
  have hzero : groupAt (packBytes B) k = 0 :=
    digit_eq_zero (groupAt_toNat _) (two_pow_encLength_dvd_packBytes h5) hk (by omega)
  have hsymbol : encRom 0 = 0x30 := by decide
  rw [packBytes_padBytes, encSymbols_eq_map_encRom, List.getElem?_map, List.getElem?_map, List.getElem?_range hk8,
    Option.map_some, Option.map_some, hzero, hsymbol]
  exact ⟨rfl, rfl⟩

/-- Settles O24: the table of rule R82 gives the first `floor(8*j/5)` groups from the first `j` bytes. -/
theorem bytePrefixFixesSymbolPrefix : Obligations.BytePrefixFixesSymbolPrefix := by
  intro B C j _ hB _ hC hjB hjC htake
  have hget : ∀ i < j, B.getD i 0 = C.getD i 0 := fun i hi => by
    simpa [List.getElem?_take, hi] using congrArg (·.getD i 0) htake
  have hgroup : ∀ k ∈ List.range (8 * j / 5), groupAt (packBytes B) k = groupAt (packBytes C) k := fun k hk => by
    have hk := List.mem_range.mp hk
    rw [groupAt_packBytes B (by omega), groupAt_packBytes C (by omega)]
    exact encGroupLayout_congr (by omega) (by omega) hget
  have hpresent : ∀ {L}, j ≤ L → 8 * j / 5 ≤ encLength L := fun h => by
    unfold encLength
    omega
  rw [encChunk_take hB (hpresent hjB), encChunk_take hC (hpresent hjC), List.map_congr_left hgroup, encChunk_length hB]
  exact ⟨rfl, hpresent hjB⟩

end Sys2Proof.Machine

/-! `DEC` of what an `ENC` left in `OUT` (rules R83, R102, R104). -/

namespace Sys2Proof.Machine

open Sys2Proof.Safety

/-- The held items are read back from the joined lanes, whatever the lanes beyond them hold. -/
theorem lanes_lanesWord_of_holdsOk {items : List Byte} {t : State} (h : HoldsOk items t) (h8 : items.length ≤ 8) :
    lanes (lanesWord t.out) items.length = items := by
  obtain ⟨_, _, _, hout⟩ := h
  refine List.ext_getElem (lanes_length _ _) fun k _ hk => ?_
  have hlane : lane (lanesWord t.out) k = items[k] := by
    rw [lane_lanesWord t.out (by omega), ← List.getD_eq_getElem _ 0 hk]
    exact hout ⟨k, by omega⟩ hk
  simpa [lanes] using hlane

theorem decResult_of_le {len : Nat} (data : Payload) (h1 : 1 ≤ len) (h8 : len ≤ 8) :
    decResult len data = decChunk (lanes data len) := by
  rw [decResult, if_neg (Nat.not_le.mpr (Nat.lt_succ_of_le h8)), if_neg (Nat.ne_of_gt h1)]

/-- A `DEC` whose first lanes are the symbols of a chunk of bytes returns the bytes. -/
theorem decResult_of_lanes_eq_encChunk {B : List Byte} {data : Payload} (h5 : B.length ≤ 5)
    (h : lanes data (encChunk B).length = encChunk B) : decResult (encChunk B).length data = .ok B := by
  obtain hB | hB := Nat.eq_zero_or_pos B.length
  · obtain rfl := List.eq_nil_of_length_eq_zero hB
    rw [encChunk_nil]
    rfl
  · have h2 : 2 ≤ (encChunk B).length := encChunk_length h5 ▸ two_le_encLength hB
    rw [decResult_of_le data (by omega) (encChunk_length_le B), h, decChunk_encChunk hB h5]

/-- Settles O37: the lanes below `OLEN` are the symbols of the chunk, and `DEC` reads no other. -/
theorem blockRoundTrip : Obligations.BlockRoundTrip := by
  intro len data s h5
  have hlen : (lanes data len).length ≤ 5 := (lanes_length data len).trans_le h5
  have holds := encResult_holds data s h5
  have hsymbols := lanes_lanesWord_of_holdsOk holds (encChunk_length_le _)
  obtain ⟨_, _, holen, _⟩ := holds
  refine ⟨_, _, exec_eq_respond _ s, exec_eq_respond _ _, ?_⟩
  rw [requestResult, requestResult, holen, decResult_of_lanes_eq_encChunk hlen hsymbols]
  exact respond_ok_holds (by omega) _

end Sys2Proof.Machine

/-! The host's driver (rules R110 to R112, R150) on requests that are all answered `Ok`. -/

namespace Sys2Proof.Machine

open Sys2Proof.Safety

/-- A transaction with a well-formed instruction writes the response of its result. -/
theorem transact_of_wellFormed {i : Instr} (h : i.WellFormed) (s : State) :
    transact i s = .next (respond (requestResult i) s) := by
  rw [transact_eq, decodeReq_encode h]

/-- A host that reads a held response sees status 0 and consumes its items (rule R150). -/
theorem readRsp_of_holdsOk {items : List Byte} {t : State} (h : HoldsOk items t) (h8 : items.length ≤ 8) (n : Nat) :
    ∃ rsp, readRsp n t = .ok rsp ∧ rsp.status = statusOk ∧ rsp.items = items := by
  obtain ⟨hrvalid, hstatus, holen, hout⟩ := h
  refine ⟨_, readRsp_of_rvalid hrvalid n, hstatus, List.ext_getElem ?_ fun k _ hk => ?_⟩
  · simp [Response.items, holen, h8]
  · have hread : (readLanes n t)[k] = items[k] := by
      rw [← List.getD_eq_getElem _ 0 hk, ← hout ⟨k, by omega⟩ hk]
      exact readLanes_below (k := ⟨k, by omega⟩) (show k < t.olen.toNat by omega) n
    simpa [Response.items] using hread

/-- The state of the block once it has answered the requests in order. -/
def respondAll (is : List Instr) (s : State) : State :=
  is.foldl (fun t i => respond (requestResult i) t) s

/-- An answered request adds its items to the output (rules R112, R150). -/
theorem driveRequests_cons_of_ok {i : Instr} {items : List Byte} (hwf : i.WellFormed) (h : requestResult i = .ok items)
    (rest : List Instr) (s : State) (acc : List Byte) :
    driveRequests (i :: rest) s acc = driveRequests rest (respond (requestResult i) s) (acc ++ items) := by
  have h8 : items.length ≤ 8 := by
    simpa [h] using (requestResult_items_length i).1
  have holds : HoldsOk items (respond (requestResult i) s) := h ▸ respond_ok_holds h8 s
  obtain ⟨rsp, hrsp, hstatus, hitems⟩ := readRsp_of_holdsOk holds h8 (respond (requestResult i) s).draws
  simp [driveRequests, transact_of_wellFormed hwf, hrsp, hstatus, hitems]

/-- Requests that are all answered `Ok` are all sent, and their items are joined. -/
theorem driveRequests_of_ok {is : List Instr} {outs : List (List Byte)} (hwf : ∀ i ∈ is, i.WellFormed)
    (h : is.map requestResult = outs.map .ok) (s : State) (acc : List Byte) :
    driveRequests is s acc = ⟨acc ++ outs.flatten, .done, respondAll is s⟩ := by
  induction is generalizing outs s acc with
  | nil =>
    obtain rfl : outs = [] := by simpa using h.symm
    simp [driveRequests, respondAll]
  | cons i is ih =>
    obtain _ | ⟨items, outs⟩ := outs
    · cases h
    obtain ⟨hi, his⟩ := List.cons.inj h
    obtain ⟨hwfi, hwfis⟩ := List.forall_mem_cons.mp hwf
    rw [driveRequests_cons_of_ok hwfi hi, ih hwfis his, List.flatten_cons, List.append_assoc]
    rfl

theorem requestResult_encRequest {B : List Byte} (h5 : B.length ≤ 5) :
    requestResult (encRequest B) = .ok (encChunk B) := by
  rw [encRequest, requestResult, encResult_of_le _ h5, lanes_payloadOf (by omega)]

theorem requestResult_decRequest {S : List Byte} (h1 : 1 ≤ S.length) (h8 : S.length ≤ 8) :
    requestResult (decRequest S) = decChunk S := by
  rw [decRequest, requestResult, decResult_of_le _ h1 h8, lanes_payloadOf h8]

end Sys2Proof.Machine

/-! The chunks of a stream (rules R110, R111, R116), by induction from the front: full chunks, then a short rest. -/

namespace Sys2Proof.Machine

@[simp] theorem chunksOf_nil (n : Nat) : chunksOf n [] = [] := by
  obtain _ | n := n <;> simp [chunksOf, Nat.div_eq_of_lt]

section
variable {n : Nat} (hn : 0 < n)
include hn

/-- A full chunk at the front is cut off first. -/
theorem chunksOf_append {c : List Byte} (hc : c.length = n) (xs : List Byte) :
    chunksOf n (c ++ xs) = c :: chunksOf n xs := by
  have hcount : ((c ++ xs).length + (n - 1)) / n = (xs.length + (n - 1)) / n + 1 := by
    rw [List.length_append, hc, Nat.add_assoc, Nat.add_div_left _ hn]
  have htail : ∀ t, (c ++ xs).drop (n * (t + 1)) = xs.drop (n * t) := fun t => by
    rw [Nat.mul_succ, Nat.add_comm, ← hc, List.drop_length_add_append]
  rw [chunksOf, hcount, List.range_succ_eq_map, List.map_cons, List.map_map]
  simp [chunksOf, Function.comp_def, htail, List.take_left' hc]

theorem chunksOf_of_length_le {c : List Byte} (h1 : 1 ≤ c.length) (hc : c.length ≤ n) : chunksOf n c = [c] := by
  have hcount : (c.length + (n - 1)) / n = 1 := Nat.div_eq_of_lt_le (by omega) (by omega)
  simp [chunksOf, hcount, hc]

/-- Induction over the chunks of a sequence. -/
theorem chunk_induction {motive : List Byte → Prop} (nil : motive [])
    (short : ∀ c, 1 ≤ c.length → c.length ≤ n → motive c)
    (full : ∀ c xs, c.length = n → motive xs → motive (c ++ xs)) (xs : List Byte) : motive xs := by
  induction hlen : xs.length using Nat.strong_induction_on generalizing xs with
  | h len ih =>
    obtain rfl | hxs := eq_or_ne xs []
    · exact nil
    by_cases hle : xs.length ≤ n
    · exact short xs (List.length_pos_iff.mpr hxs) hle
    · rw [← List.take_append_drop n xs]
      exact full _ _ (List.length_take_of_le (by omega)) (ih _ (by rw [List.length_drop]; omega) _ rfl)

theorem flatten_chunksOf (xs : List Byte) : (chunksOf n xs).flatten = xs := by
  induction xs using chunk_induction hn with
  | nil => simp
  | short c h1 hc => simp [chunksOf_of_length_le hn h1 hc]
  | full c xs hc ih => rw [chunksOf_append hn hc, List.flatten_cons, ih]

theorem length_of_mem_chunksOf {xs c : List Byte} (h : c ∈ chunksOf n xs) : 1 ≤ c.length ∧ c.length ≤ n := by
  induction xs using chunk_induction hn with
  | nil => simp at h
  | short d h1 hd =>
    rw [chunksOf_of_length_le hn h1 hd, List.mem_singleton] at h
    exact h ▸ ⟨h1, hd⟩
  | full d xs hd ih =>
    rw [chunksOf_append hn hd, List.mem_cons] at h
    obtain rfl | h := h
    · omega
    · exact ih h

end

/-- `ENCODE_BYTES` sends every chunk and joins the symbols (rule R110). -/
theorem runEncodeBytes_eq (B : List Byte) (s : State) :
    runEncodeBytes B s =
      ⟨((chunksOf 5 B).map encChunk).flatten, .done, respondAll ((chunksOf 5 B).map encRequest) s⟩ := by
  have hlen : ∀ c ∈ chunksOf 5 B, c.length ≤ 5 := fun c hc => (length_of_mem_chunksOf (by decide) hc).2
  refine driveRequests_of_ok (List.forall_mem_map.mpr fun c hc => ?_) ?_ s []
  · exact Nat.lt_of_le_of_lt (hlen c hc) (by decide)
  · simpa using fun c hc => requestResult_encRequest (hlen c hc)

/-- `DECODE_STRING` of a stream whose chunks all decode sends every chunk and joins the bytes (rule R111). -/
theorem runDecodeString_of_ok {T : List Byte} {outs : List (List Byte)}
    (h : (chunksOf 8 T).map decChunk = outs.map Result.ok) (s : State) :
    runDecodeString T s = ⟨outs.flatten, .done, respondAll ((chunksOf 8 T).map decRequest) s⟩ := by
  have hlen : ∀ c ∈ chunksOf 8 T, 1 ≤ c.length ∧ c.length ≤ 8 := fun c hc => length_of_mem_chunksOf (by decide) hc
  refine driveRequests_of_ok (List.forall_mem_map.mpr fun c hc => ?_) ?_ s []
  · exact Nat.lt_of_le_of_lt (hlen c hc).2 (by decide)
  · rw [← h, List.map_map]
    exact List.map_congr_left fun c hc => requestResult_decRequest (hlen c hc).1 (hlen c hc).2

/-- The joined symbols are cut for decoding where they were joined: five bytes fill eight symbols. -/
theorem chunksOf_flatten_map_encChunk (B : List Byte) :
    chunksOf 8 ((chunksOf 5 B).map encChunk).flatten = (chunksOf 5 B).map encChunk := by
  induction B using chunk_induction (n := 5) (by decide) with
  | nil => simp
  | short c h1 h5 =>
    have h2 : 2 ≤ (encChunk c).length := encChunk_length h5 ▸ two_le_encLength h1
    rw [chunksOf_of_length_le (by decide) h1 h5, List.map_singleton, List.flatten_singleton]
    exact chunksOf_of_length_le (by decide) (by omega) (encChunk_length_le c)
  | full c B hc ih =>
    have hlen : (encChunk c).length = 8 := by
      rw [encChunk_length (by omega), hc, encLength]
    rw [chunksOf_append (by decide) hc, List.map_cons, List.flatten_cons, chunksOf_append (by decide) hlen, ih]

/-- Settles O60: the driver decodes the chunks the encoder made, each to its own bytes. -/
theorem streamRoundTrip : Obligations.StreamRoundTrip := by
  intro B s s'
  have hchunks : (chunksOf 8 ((chunksOf 5 B).map encChunk).flatten).map decChunk = (chunksOf 5 B).map Result.ok := by
    rw [chunksOf_flatten_map_encChunk, List.map_map]
    refine List.map_congr_left fun c hc => ?_
    obtain ⟨h1, h5⟩ := length_of_mem_chunksOf (by decide) hc
    exact decChunk_encChunk h1 h5
  rw [runEncodeBytes_eq, runDecodeString_of_ok hchunks, flatten_chunksOf (by decide)]
  rfl

end Sys2Proof.Machine

/-! The operation `DEC` (rules R90 to R104). -/

namespace Sys2Proof.Machine

open Sys2Proof.Safety

theorem decLength_le {M : Nat} (h : M ≤ 8) : decLength M ≤ 5 := by
  unfold decLength
  omega

theorem byteAt_eq (N j : Nat) : byteAt N j = BitVec.ofNat 8 (N / 2 ^ (32 - 8 * j) % 256) := by
  rw [byteAt, Nat.and_two_pow_sub_one_eq_mod _ 8, Nat.shiftRight_eq_div_pow]

/-- Each byte is joined from the groups as the table of rule R101 says. -/
theorem byteAt_packGroups (G : List Value) {j : Nat} (hj : j < 5) : byteAt (packGroups G) j = decByteLayout G j := by
  have hgroup : ∀ i, (G.getD i 0).toNat < 32 := fun i => (G.getD i 0).isLt
  have h0 := hgroup 0
  have h1 := hgroup 1
  have h2 := hgroup 2
  have h3 := hgroup 3
  have h4 := hgroup 4
  have h5 := hgroup 5
  have h6 := hgroup 6
  have h7 := hgroup 7
  apply BitVec.eq_of_toNat_eq
  rw [byteAt_toNat, packGroups]
  interval_cases j <;>
    simp only [decByteLayout, toNat_append_eq_add, BitVec.extractLsb'_toNat, Nat.shiftRight_eq_div_pow] <;> omega

/-- A byte whose bits end before group `n` reads no group from there on. -/
theorem byteAt_packGroups_congr {G G' : List Value} {n j : Nat} (hn : n ≤ 8) (hj : j < decLength n)
    (h : ∀ i < n, G.getD i 0 = G'.getD i 0) : byteAt (packGroups G) j = byteAt (packGroups G') j := by
  have hj5 : j < 5 := hj.trans_le (decLength_le hn)
  rw [byteAt_packGroups G hj5, byteAt_packGroups G' hj5]
  unfold decLength at hj
  interval_cases j <;> simp (disch := omega) only [decByteLayout, h]

/-- The leading `n` bytes of an integer depend on no bit below them (rule R97). -/
theorem byteAt_congr_of_div_eq {N N' n j : Nat} (hj : j < n) (hn : n ≤ 5)
    (h : N / 2 ^ (40 - 8 * n) = N' / 2 ^ (40 - 8 * n)) : byteAt N j = byteAt N' j := by
  have hexp : 32 - 8 * j = 40 - 8 * n + 8 * (n - 1 - j) := by omega
  rw [byteAt_eq, byteAt_eq, hexp, Nat.pow_add, ← Nat.div_div_eq_div_mul, ← Nat.div_div_eq_div_mul, h]

theorem unpackBytes_congr {g g' : List Value} (hlen : decLength g.length = decLength g'.length)
    (h : ∀ j < decLength g.length, byteAt (packGroups g) j = byteAt (packGroups g') j) :
    unpackBytes g = unpackBytes g' := by
  rw [unpackBytes_eq, unpackBytes_eq, ← hlen]
  exact List.map_congr_left fun j hj => h j (List.mem_range.mp hj)

theorem unpackBytes_getD {g : List Value} {j : Nat} (hj : j < decLength g.length) :
    (unpackBytes g).getD j 0 = byteAt (packGroups g) j := by
  simp [unpackBytes_eq, hj]

/-! What `DEC` answers. -/

theorem exec_congr {i j : Instr} (h : requestResult i = requestResult j) (s : State) : exec i s = exec j s := by
  rw [exec_eq_respond, exec_eq_respond, h]

theorem decResult_of_ge {len : Nat} {data : Payload} (h : 9 ≤ len) : decResult len data = .err .badRequest := if_pos h

theorem decResult_of_invalid {len i : Nat} {data : Payload} (h2 : 2 ≤ len) (h8 : len ≤ 8) (hi : i < len)
    (h : decRom (lane data i) = none) : decResult len data = .err .invalidCharacter := by
  have hscan : lookupAll (lanes data len) = none := by
    by_contra hne
    exact lookupAll_lanes_ne_none.mp hne i hi h
  rw [decResult_of_le data (by omega) h8, decChunk, hscan, lanes_length, if_neg (by omega)]

/-- The empty chunk is no exception (rule R99): its scan gives no groups, and they have no bytes. -/
theorem decResult_of_scan {len : Nat} {data : Payload} {g : List Value} (h1 : len ≠ 1) (h8 : len ≤ 8)
    (hg : lookupAll (lanes data len) = some g) : decResult len data = .ok (unpackBytes g) := by
  obtain rfl | hpos := Nat.eq_zero_or_pos len
  · obtain rfl : [] = g := Option.some.inj hg
    rfl
  · rw [decResult_of_le data hpos h8]
    exact decChunk_eq_ok_iff.mpr ⟨by rwa [lanes_length], g, hg, rfl⟩

/-- `DEC` of a chunk of valid symbols, lane by lane: `OLEN`, and the byte of the integer in each lane. -/
theorem decResult_lanes {len : Nat} {data : Payload} {g : List Value} (h1 : len ≠ 1) (h8 : len ≤ 8)
    (hg : lookupAll (lanes data len) = some g) (s : State) :
    (respond (decResult len data) s).rvalid = true ∧ (respond (decResult len data) s).status = statusOk ∧
      (respond (decResult len data) s).olen.toNat = decLength len ∧
      ∀ j : Fin 8, j.val < decLength len → (respond (decResult len data) s).out[j] = byteAt (packGroups g) j := by
  have hlen : g.length = len := (lookupAll_length hg).trans (lanes_length data len)
  have hle := unpackBytes_length_le (hlen.trans_le h8)
  obtain ⟨hrvalid, hstatus, holen, hout⟩ := respond_ok_holds (hle.trans (by decide)) s
  rw [unpackBytes_length, hlen] at holen hout
  rw [decResult_of_scan h1 h8 hg]
  refine ⟨hrvalid, hstatus, holen, fun j hj => ?_⟩
  rw [hout j hj, unpackBytes_getD (by rwa [hlen])]

theorem lookupAll_lanes_map {len : Nat} {data : Payload} {v : Nat → Value}
    (h : ∀ i < len, decRom (lane data i) = some (v i)) :
    lookupAll (lanes data len) = some ((List.range len).map v) :=
  lookupAll_lanes_eq_some (by simp) fun i hi => by simpa [hi] using h i hi

theorem packGroups_map_range {len : Nat} {v : Nat → Value} (h : ∀ i, len ≤ i → v i = 0) :
    packGroups ((List.range len).map v) =
      (v 0).toNat * 32 ^ 7 + (v 1).toNat * 32 ^ 6 + (v 2).toNat * 32 ^ 5 + (v 3).toNat * 32 ^ 4 +
        (v 4).toNat * 32 ^ 3 + (v 5).toNat * 32 ^ 2 + (v 6).toNat * 32 + (v 7).toNat := by
  have hget : ∀ i, ((List.range len).map v).getD i 0 = v i := fun i => by
    by_cases hi : i < len
    · simp [hi]
    · rw [List.getD_eq_default _ _ (by simpa using hi), h i (by omega)]
  simp only [packGroups, hget]

/-- Settles O25: the answers of `ExecDEC`, one for each clause. -/
theorem decPacksSymbolsIntoBytes : Obligations.DecPacksSymbolsIntoBytes := by
  intro len data s
  refine ⟨_, exec_eq_respond _ s, fun h9 => ?_, ?_, ?_, fun h2 h8 ⟨i, hi, hnone⟩ => ?_, fun h2 h8 g hg hzero => ?_⟩
  · rw [requestResult, decResult_of_ge h9]
    exact respond_err_holds .badRequest s
  · rintro rfl
    exact respond_ok_holds (items := []) (Nat.zero_le 8) s
  · rintro rfl
    exact respond_err_holds .malformedChunk s
  · rw [requestResult, decResult_of_invalid h2 h8 hi hnone]
    exact respond_err_holds .invalidCharacter s
  · obtain ⟨hrvalid, hstatus, holen, hout⟩ := decResult_lanes (by omega) h8 (lookupAll_lanes_map hg) s
    refine ⟨hrvalid, hstatus, holen, fun j hj => ?_⟩
    rw [requestResult, hout j (holen ▸ hj), byteAt_eq, packGroups_map_range hzero]

/-- The presence column of the table of rule R101. -/
theorem lt_decLength_iff : ∀ len ≤ 8, ∀ j : Fin 8,
    j.val < decLength len ↔ [2, 4, 5, 7, 8, 9, 9, 9].getD j.val 0 ≤ len := by decide

/-- Settles O26: each lane is a byte of the integer, and the byte is the table's. -/
theorem decFollowsTheBitLayout : Obligations.DecFollowsTheBitLayout := by
  intro len data s G h2 h8 hG
  obtain ⟨hrvalid, hstatus, holen, hout⟩ := decResult_lanes (by omega) h8 hG s
  refine ⟨_, exec_eq_respond _ s, hrvalid, hstatus, fun j => ?_, fun j hj => ?_⟩
  · rw [requestResult, holen, lt_decLength_iff len h8 j]
  · rw [requestResult, holen] at hj
    rw [requestResult, hout j hj, byteAt_packGroups G (hj.trans_le (decLength_le h8))]

/-- The table of rule R96. -/
theorem decLength_table : ∀ len ≤ 8, len ≠ 1 → decLength len = [0, 0, 1, 1, 2, 3, 3, 4, 5].getD len 0 ∧
    5 * len = 8 * decLength len + [0, 0, 2, 7, 4, 1, 6, 3, 0].getD len 0 := by decide

/-- Settles O27: the one-symbol chunk is an error, and every other length has the row of the table. -/
theorem decOutputLengthTable : Obligations.DecOutputLengthTable := by
  intro len data s h8 hvalid
  obtain rfl | h1 := eq_or_ne len 1
  · obtain ⟨hrvalid, hstatus, holen⟩ := respond_err_holds .malformedChunk s
    exact ⟨_, exec_eq_respond _ s, hrvalid, fun _ => ⟨hstatus, holen⟩, fun h => absurd rfl h⟩
  · obtain ⟨g, hg⟩ := Option.ne_none_iff_exists'.mp (lookupAll_lanes_ne_none.mpr hvalid)
    obtain ⟨hrvalid, hstatus, holen, _⟩ := decResult_lanes h1 h8 hg s
    obtain ⟨htable, hresidual⟩ := decLength_table len h8 h1
    exact ⟨_, exec_eq_respond _ s, hrvalid, fun h => absurd h h1,
      fun _ => ⟨hstatus, holen, holen.trans htable, hresidual.trans (by rw [requestResult, holen])⟩⟩

theorem decRom_eq_none_of_ge : ∀ c : Byte, 0x80 ≤ c.toNat → decRom c = none := by decide

/-- 61 of the 256 codes are valid (rule R14 (c)), and the rest are not. -/
theorem filter_codes_invalid_length :
    ((List.range 256).filter fun n => decRom (BitVec.ofNat 8 n) = none).length = 195 := by
  have hinvalid : ∀ o : Option Value, decide (o = none) = !o.isSome := by rintro (_ | _) <;> simp
  have hcount := List.length_eq_length_filter_add (l := List.range 256) fun n => (decRom (BitVec.ofNat 8 n)).isSome
  rw [filter_codes_eq_codesWhere rfl, codesWhere_isSome_length, List.length_range] at hcount
  rw [List.filter_congr fun n _ => hinvalid (decRom (BitVec.ofNat 8 n))]
  omega

/-- Settles O28: the scan fails at the first invalid symbol, and the valid codes are counted in the table. -/
theorem invalidSymbolFailsTheChunk : Obligations.InvalidSymbolFailsTheChunk := by
  refine ⟨fun len data s i h2 h8 hi hnone => ⟨_, exec_eq_respond _ s, ?_⟩, by decide, decRom_eq_none_of_ge,
    filter_codes_invalid_length⟩
  rw [requestResult, decResult_of_invalid h2 h8 hi hnone]
  exact respond_err_holds .invalidCharacter s

theorem padGroups_getElem?_of_ge {g : List Value} {i : Nat} (hg : g.length ≤ i) (hi : i < 8) :
    (padGroups g)[i]? = some 0 := by
  rw [padGroups, List.getElem?_append_right hg, List.getElem?_replicate, if_pos (by omega)]

/-- Settles O29: the bits of every byte below `floor(5*M/8)` end before the fill. -/
theorem padFillReachesNoByte : Obligations.PadFillReachesNoByte := by
  refine ⟨fun g i => padGroups_getElem?_of_ge, by decide, fun g f f' j hf _ hj => ?_⟩
  refine byteAt_packGroups_congr (by omega) hj fun i hi => ?_
  rw [List.getD_append _ _ _ _ hi, List.getD_append _ _ _ _ hi]

/-- `ExecDEC` reads the payload by the values of its first `len` symbols alone (rules R103, R104). -/
theorem decResult_congr {len : Nat} {d d' : Payload} (h : ∀ k < len, decRom (lane d k) = decRom (lane d' k)) :
    decResult len d = decResult len d' := by
  have hscan : lookupAll (lanes d len) = lookupAll (lanes d' len) := lookupAll_congr (by simpa [lanes] using h)
  simp only [decResult, decChunk, lanes_length, hscan]

/-- Settles O34: the result reads values, and `exec` answers with the response of the result. -/
theorem synonymsDecodeAlike : Obligations.SynonymsDecodeAlike :=
  fun _ _ _ h => exec_congr (decResult_congr h)

/-- Settles O33: equal symbols have equal values. -/
theorem decIgnoresUnusedLanes : Obligations.DecIgnoresUnusedLanes := by
  intro len d d' _ hagree
  have hres : decResult len d = decResult len d' := decResult_congr fun k hk => by rw [hagree k hk]
  exact ⟨hres, exec_congr hres⟩

/-- The zero symbols are synonyms of the pad character (rule R95). -/
theorem decRom_eq_of_pad_replaced {c c' : Byte}
    (h : c' = c ∨ (c = 0x3d ∧ (c' = 0x30 ∨ c' = 0x4f ∨ c' = 0x6f))) : decRom c = decRom c' := by
  obtain rfl | ⟨rfl, h⟩ := h
  · rfl
  · obtain rfl | rfl | rfl := h <;> decide

/-- Settles O30: a replaced `=` keeps its value; the examples are run. -/
theorem explicitPadReadsAsZero : Obligations.ExplicitPadReadsAsZero :=
  ⟨fun _ _ _ h => exec_congr (decResult_congr fun k hk => decRom_eq_of_pad_replaced (h k hk)),
    by decide, by decide, by decide, by decide⟩

/-- Settles O31: the bytes are the bits of the integer above the residual ones; the four chunks are run. -/
theorem residualBitsAreDropped : Obligations.ResidualBitsAreDropped := by
  refine ⟨fun len d d' G G' h2 h8 hG hG' hpack s => ?_, ?_, by decide⟩
  · have hlen : G.length = len := (lookupAll_length hG).trans (lanes_length d len)
    have hlen' : G'.length = len := (lookupAll_length hG').trans (lanes_length d' len)
    rw [packGroups_padGroups, packGroups_padGroups] at hpack
    have hbytes : unpackBytes G = unpackBytes G' := by
      refine unpackBytes_congr (by rw [hlen, hlen']) fun j hj => ?_
      exact byteAt_congr_of_div_eq (hlen ▸ hj) (decLength_le h8) hpack
    have hres : decResult len d = decResult len d' := by
      rw [decResult_of_scan (by omega) h8 hG, decResult_of_scan (by omega) h8 hG', hbytes]
    obtain ⟨_, hstatus, _⟩ := decResult_lanes (by omega) h8 hG s
    exact ⟨exec_congr (i := .dec len d) (j := .dec len d') hres s, _, exec_eq_respond _ s, hstatus⟩
  · rintro c (rfl | rfl | rfl | rfl) <;> decide

/-- A last symbol that completes no byte is residual: the result is that of the chunk without it (rule R98). -/
theorem decResult_succ {len : Nat} {data : Payload} (h2 : 2 ≤ len) (h8 : len + 1 ≤ 8)
    (hlen : decLength (len + 1) = decLength len) (hvalid : ∀ i < len + 1, decRom (lane data i) ≠ none) :
    decResult (len + 1) data = decResult len data := by
  choose! v hv using fun i hi => Option.ne_none_iff_exists'.mp (hvalid i hi)
  rw [decResult_of_scan (by omega) h8 (lookupAll_lanes_map hv),
    decResult_of_scan (by omega) (by omega) (lookupAll_lanes_map fun i hi => hv i (by omega))]
  refine congrArg Result.ok (unpackBytes_congr (by simpa using hlen) fun j hj => ?_)
  rw [List.length_map, List.length_range, hlen] at hj
  refine byteAt_packGroups_congr (by omega) hj fun i hi => ?_
  simp [hi, Nat.lt_succ_of_lt hi]

/-- Settles O32: at both lengths the last symbol completes no byte. -/
theorem lengthsThreeAndSixAreAccepted : Obligations.LengthsThreeAndSixAreAccepted := by
  intro len data s hlen hearlier
  obtain ⟨n, rfl⟩ : ∃ n, len = n + 1 := ⟨len - 1, by omega⟩
  have hresidual : decLength (n + 1) = decLength n ∧ decLength (n + 1) = (n + 1) / 2 := by
    unfold decLength
    omega
  rw [Nat.add_sub_cancel]
  refine ⟨_, _, exec_eq_respond _ s, exec_eq_respond _ s, fun hlast => ?_, fun hlast => ?_⟩
  · have hvalid : ∀ i < n + 1, decRom (lane data i) ≠ none := fun i hi => by
      obtain hi | rfl := Nat.lt_succ_iff_lt_or_eq.mp hi
      · exact hearlier i (Nat.succ_lt_succ hi)
      · exact hlast
    obtain ⟨g, hg⟩ := Option.ne_none_iff_exists'.mp (lookupAll_lanes_ne_none.mpr hvalid)
    obtain ⟨hrvalid, hstatus, holen, _⟩ := decResult_lanes (by omega) (by omega) hg s
    refine ⟨hrvalid, hstatus, holen.trans hresidual.2, ?_⟩
    rw [requestResult, requestResult, decResult_succ (by omega) (by omega) hresidual.1 hvalid]
    exact respond_sameResponse _ s s
  · rw [requestResult, decResult_of_invalid (by omega) (by omega) (Nat.lt_succ_self n) hlast]
    exact respond_err_holds .invalidCharacter s

/-- The one-symbol chunk is the only request that is malformed (rule R127): an illegal length of any other request is a bad
request, and a legal one has no such error. -/
theorem requestResult_eq_malformed_iff {i : Instr} :
    requestResult i = .err .malformedChunk ↔ ∃ data, i = .dec 1 data := by
  refine ⟨fun h => ?_, fun ⟨_, hi⟩ => hi ▸ rfl⟩
  by_contra hone
  by_cases hlegal : i.LegalLen = true
  · obtain h | ⟨h, _⟩ := requestResult_err_of_legalLen hlegal h <;> cases h
  · cases h.symm.trans (requestResult_of_illegalLen hlegal (not_exists.mp hone))

/-- Settles O45: the status is the result's. -/
theorem malformedChunkRaisers : Obligations.MalformedChunkRaisers := fun i s =>
  ⟨_, exec_eq_respond i s, respond_status_eq_errCode.trans requestResult_eq_malformed_iff⟩

end Sys2Proof.Machine

/-! The chunks of a stream are its only cut that is short at the end alone (rules R110, R111, R116). -/

namespace Sys2Proof.Machine

open Sys2Proof.Safety

@[simp] theorem chunksOf_length (n : Nat) (xs : List Byte) : (chunksOf n xs).length = (xs.length + (n - 1)) / n := by
  simp [chunksOf]

section
variable {n : Nat} (hn : 0 < n)
include hn

/-- A full chunk may stand before anything that is short only at its end. -/
theorem shortOnlyLast_cons_of_full {c : List Byte} (hc : c.length = n) (cs : List (List Byte)) :
    ShortOnlyLast n (c :: cs) = ShortOnlyLast n cs := by
  cases cs with
  | nil => simp [ShortOnlyLast, hc, Nat.one_le_iff_ne_zero, hn.ne']
  | cons d ds => simp [ShortOnlyLast, hc]

theorem shortOnlyLast_chunksOf (xs : List Byte) : ShortOnlyLast n (chunksOf n xs) = true := by
  induction xs using chunk_induction hn with
  | nil => simp [ShortOnlyLast]
  | short c h1 hc => simp [chunksOf_of_length_le hn h1 hc, ShortOnlyLast, h1, hc]
  | full c xs hc ih => rw [chunksOf_append hn hc, shortOnlyLast_cons_of_full hn hc, ih]

/-- Any cut that is short only at its end is the one `chunksOf` makes of the joined stream (rule R116). -/
theorem eq_chunksOf_flatten : ∀ {cs : List (List Byte)}, ShortOnlyLast n cs = true → cs = chunksOf n cs.flatten
  | [], _ => by simp
  | [c], h => by
    obtain ⟨h1, hc⟩ : 1 ≤ c.length ∧ c.length ≤ n := by simpa [ShortOnlyLast] using h
    rw [List.flatten_singleton, chunksOf_of_length_le hn h1 hc]
  | c :: d :: rest, h => by
    obtain ⟨hc, hrest⟩ : c.length = n ∧ ShortOnlyLast n (d :: rest) = true := by simpa [ShortOnlyLast] using h
    rw [List.flatten_cons, chunksOf_append hn hc, ← eq_chunksOf_flatten hrest]

/-- A stream may be cut in two behind any whole number of full chunks. -/
theorem chunksOf_append_of_dvd {xs : List Byte} (h : n ∣ xs.length) (ys : List Byte) :
    chunksOf n (xs ++ ys) = chunksOf n xs ++ chunksOf n ys := by
  induction xs using chunk_induction hn with
  | nil => simp
  | short c h1 hc =>
    have hfull : c.length = n := Nat.le_antisymm hc (Nat.le_of_dvd h1 h)
    rw [chunksOf_append hn hfull, chunksOf_of_length_le hn h1 hc, List.singleton_append]
  | full c xs hc ih =>
    have hdvd : n ∣ xs.length := by simpa [hc] using h
    rw [List.append_assoc, chunksOf_append hn hc, chunksOf_append hn hc, ih hdvd, List.cons_append]

end

/-- Settles O52: a cut that is short only at its end has its full chunks where `chunksOf` has them. -/
theorem chunksAreTheOnlyCut : Obligations.ChunksAreTheOnlyCut := by
  intro n xs hn
  refine ⟨flatten_chunksOf hn xs, shortOnlyLast_chunksOf hn xs, ?_, ?_⟩
  · rw [chunksOf_length, Nat.add_sub_assoc hn]
  · rintro cs hshort rfl
    exact eq_chunksOf_flatten hn hshort

/-- Settles O53, by induction on the reads: what is sent at a read is a whole number of full chunks. -/
theorem readsDoNotMoveTheChunks : Obligations.ReadsDoNotMoveTheChunks := by
  intro n held reads hn
  induction reads generalizing held with
  | nil => simp [chunksOfReads]
  | cons r reads ih =>
    have hdvd : n ∣ ((held ++ r).take ((held ++ r).length / n * n)).length := by
      rw [List.length_take_of_le (Nat.div_mul_le_self _ n)]
      exact Nat.dvd_mul_left n _
    simp only [chunksOfReads]
    rw [ih, ← chunksOf_append_of_dvd hn hdvd, ← List.append_assoc, List.take_append_drop, List.append_assoc,
      List.flatten_cons]

/-- Settles O58: the empty sequence has no chunks, and a driver without requests leaves the block as it was. -/
theorem emptyStreamsSendNothing : Obligations.EmptyStreamsSendNothing := fun _ => ⟨rfl, rfl, rfl⟩

end Sys2Proof.Machine

/-! `ENCODE_BYTES` (rules R110, R119). -/

namespace Sys2Proof.Machine

/-- Five bytes fill eight symbols, so the lengths of the chunks' symbols add up (rule R110). -/
theorem length_flatten_map_encChunk (B : List Byte) :
    ((chunksOf 5 B).map encChunk).flatten.length = encLength B.length := by
  induction B using chunk_induction (n := 5) (by decide) with
  | nil => simp [encLength]
  | short c h1 h5 => simp [chunksOf_of_length_le (by decide) h1 h5, encChunk_length h5]
  | full c B hc ih =>
    rw [chunksOf_append (by decide) hc, List.map_cons, List.flatten_cons, List.length_append, ih,
      encChunk_length hc.le, List.length_append, hc]
    unfold encLength
    omega

theorem mem_encRomTable_of_mem_encChunk {B : List Byte} {c : Byte} (h : B.length ≤ 5) (hc : c ∈ encChunk B) :
    c ∈ encRomTable := by
  rw [encChunk_eq_map_encRom h] at hc
  obtain ⟨v, _, rfl⟩ := List.mem_map.mp hc
  exact encRom_mem_encRomTable v

/-- The encoder emits no pad character (rule R119). -/
theorem ne_pad_of_mem_encRomTable : ∀ c ∈ encRomTable, c ≠ 0x3d := by decide

/-- Settles O54: the driver's output is the joined symbols of the chunks. -/
theorem encodeBytesJoinsTheChunks : Obligations.EncodeBytesJoinsTheChunks := by
  intro B s
  rw [runEncodeBytes_eq]
  refine ⟨rfl, chunksOf_length 5 B, rfl, length_flatten_map_encChunk B, fun c hc => ?_⟩
  obtain ⟨S, hS, hcS⟩ := List.mem_flatten.mp hc
  obtain ⟨C, hC, rfl⟩ := List.mem_map.mp hS
  have hcanonical := mem_encRomTable_of_mem_encChunk (length_of_mem_chunksOf (by decide) hC).2 hcS
  exact ⟨hcanonical, ne_pad_of_mem_encRomTable c hcanonical⟩

end Sys2Proof.Machine

/-! The host's driver on requests some of which fail (rules R112, R115, R152). -/

namespace Sys2Proof.Machine

@[simp] theorem respond_rvalid (r : Result) (s : State) : (respond r s).rvalid = true := by
  rw [respond_eq, writeResponse_rvalid]

@[simp] theorem respond_draws (r : Result) (s : State) : (respond r s).draws = s.draws + 1 :=
  (respond_frame r s).2

@[simp] theorem respondAll_draws (is : List Instr) (s : State) : (respondAll is s).draws = s.draws + is.length := by
  induction is generalizing s with
  | nil => rfl
  | cons i is ih =>
    calc (respondAll is (respond (requestResult i) s)).draws
        = s.draws + 1 + is.length := by rw [ih, respond_draws]
      _ = s.draws + (i :: is).length := by rw [List.length_cons]; omega

/-- The driver stops at an error and keeps what it has joined (rules R115, R152). -/
theorem driveRequests_cons_of_err {i : Instr} {e : ErrKind} (hwf : i.WellFormed) (h : requestResult i = .err e)
    (rest : List Instr) (s : State) (acc : List Byte) :
    driveRequests (i :: rest) s acc = ⟨acc, .failed e, respond (.err e) s⟩ := by
  have hstatus : (respond (.err e) s).status = errCode e := respond_status_eq_errCode.mpr rfl
  simp [driveRequests, transact_of_wellFormed hwf, h, readRsp_of_rvalid, hstatus]

/-- A run that ends well goes on with the requests behind it. -/
theorem driveRequests_append_of_done {is : List Instr} {s t : State} {acc out : List Byte}
    (h : driveRequests is s acc = ⟨out, .done, t⟩) (js : List Instr) :
    driveRequests (is ++ js) s acc = driveRequests js t out := by
  induction is generalizing s acc with
  | nil =>
    obtain ⟨rfl, rfl⟩ : acc = out ∧ s = t := by simpa [driveRequests] using h
    rfl
  | cons i is ih =>
    simp only [List.cons_append, driveRequests, transact_eq, readRsp_of_rvalid (respond_rvalid _ _)] at h ⊢
    split at h
    · cases h
    · exact ih h

/-- How a run ends: with every request answered `Ok`, or with the error of one that is not. -/
theorem driveRequests_ending_cases {is : List Instr} (hwf : ∀ i ∈ is, i.WellFormed) (s : State) (acc : List Byte) :
    ((driveRequests is s acc).ending = .done ∧ ∀ i ∈ is, ∃ items, requestResult i = .ok items) ∨
      ∃ i ∈ is, ∃ e, requestResult i = .err e ∧ (driveRequests is s acc).ending = .failed e := by
  induction is generalizing s acc with
  | nil => simp [driveRequests]
  | cons i is ih =>
    obtain ⟨hwfi, hwfis⟩ := List.forall_mem_cons.mp hwf
    cases hi : requestResult i with
    | err e =>
      refine .inr ⟨i, List.mem_cons_self, e, hi, ?_⟩
      rw [driveRequests_cons_of_err hwfi hi]
    | ok items =>
      rw [driveRequests_cons_of_ok hwfi hi]
      obtain ⟨hdone, hall⟩ | ⟨j, hj, hfailed⟩ := ih hwfis (respond (requestResult i) s) (acc ++ items)
      · exact .inl ⟨hdone, List.forall_mem_cons.mpr ⟨⟨items, hi⟩, hall⟩⟩
      · exact .inr ⟨j, List.mem_cons_of_mem i hj, hfailed⟩

theorem driveRequests_done_iff {is : List Instr} (hwf : ∀ i ∈ is, i.WellFormed) (s : State) (acc : List Byte) :
    (driveRequests is s acc).ending = .done ↔ ∀ i ∈ is, ∃ items, requestResult i = .ok items := by
  obtain ⟨hdone, hall⟩ | ⟨i, hi, e, herr, hfailed⟩ := driveRequests_ending_cases hwf s acc
  · exact iff_of_true hdone hall
  · refine iff_of_false (by simp [hfailed]) fun hall => ?_
    obtain ⟨items, hok⟩ := hall i hi
    cases herr.symm.trans hok

theorem wholeResult_ok_iff {r : StreamRun} : (∃ B, wholeResult r = some (.ok B)) ↔ r.ending = .done := by
  unfold wholeResult
  cases r.ending <;> simp

end Sys2Proof.Machine

/-! `DECODE_STRING` (rules R111, R114, R115). -/

namespace Sys2Proof.Machine

open Sys2Proof.Safety

/-- The driver's requests for a string are well-formed, and each is answered with the result of its chunk. -/
theorem decRequest_of_mem_chunksOf {T S : List Byte} (h : S ∈ chunksOf 8 T) :
    (decRequest S).WellFormed ∧ requestResult (decRequest S) = decChunk S := by
  obtain ⟨h1, h8⟩ := length_of_mem_chunksOf (by decide) h
  exact ⟨Nat.lt_of_le_of_lt h8 (by decide), requestResult_decRequest h1 h8⟩

/-- The first chunk that does not decode ends the run, after the chunks before it (rules R111, R115). -/
theorem runDecodeString_of_err {T : List Byte} {before after : List (List Byte)} {S : List Byte}
    {outs : List (List Byte)} {e : ErrKind} (hT : chunksOf 8 T = before ++ S :: after)
    (hbefore : before.map decChunk = outs.map Result.ok) (hS : decChunk S = .err e) (s : State) :
    runDecodeString T s = ⟨outs.flatten, .failed e, respond (.err e) (respondAll (before.map decRequest) s)⟩ := by
  have hchunk : ∀ C ∈ before ++ S :: after, (decRequest C).WellFormed ∧ requestResult (decRequest C) = decChunk C :=
    fun C hC => decRequest_of_mem_chunksOf (hT ▸ hC)
  rw [List.forall_mem_append, List.forall_mem_cons] at hchunk
  obtain ⟨hchunks, ⟨hwf, hres⟩, _⟩ := hchunk
  have hok : (before.map decRequest).map requestResult = outs.map Result.ok := by
    rw [← hbefore, List.map_map]
    exact List.map_congr_left fun C hC => (hchunks C hC).2
  have hrun := driveRequests_of_ok (List.forall_mem_map.mpr fun C hC => (hchunks C hC).1) hok s []
  rw [runDecodeString, hT, List.map_append, driveRequests_append_of_done hrun, List.map_cons,
    driveRequests_cons_of_err hwf (hres.trans hS), List.nil_append]

theorem length_of_decChunk_eq_ok {S B : List Byte} (h : decChunk S = .ok B) : B.length = decLength S.length := by
  obtain ⟨_, g, hg, rfl⟩ := decChunk_eq_ok_iff.mp h
  rw [unpackBytes_length, lookupAll_length hg]

/-- Eight symbols give five bytes, so the lengths of the chunks' bytes add up (rule R111). -/
theorem length_flatten_of_decChunk {T : List Byte} {outs : List (List Byte)}
    (h : (chunksOf 8 T).map decChunk = outs.map Result.ok) : outs.flatten.length = decLength T.length := by
  induction T using chunk_induction (n := 8) (by decide) generalizing outs with
  | nil =>
    obtain rfl : outs = [] := by simpa using h.symm
    rfl
  | short S h1 h8 =>
    rw [chunksOf_of_length_le (by decide) h1 h8] at h
    obtain ⟨B, rfl, hB⟩ := List.map_eq_singleton_iff.mp h.symm
    simpa using length_of_decChunk_eq_ok hB.symm
  | full S T hS ih =>
    rw [chunksOf_append (by decide) hS, List.map_cons] at h
    obtain ⟨B, Bs, rfl, hB, hBs⟩ := List.map_eq_cons_iff.mp h.symm
    rw [List.flatten_cons, List.length_append, ih hBs.symm, length_of_decChunk_eq_ok hB.symm, List.length_append, hS]
    unfold decLength
    omega

/-- Settles O55: the run over the chunks that decode, and the run up to the first that does not. -/
theorem decodeStringStopsAtTheFirstError : Obligations.DecodeStringStopsAtTheFirstError := by
  refine ⟨chunksOf_length 8, fun T s outs h => ?_, fun T s before after S outs e hT hbefore hS => ?_⟩
  · rw [runDecodeString_of_ok h]
    refine ⟨rfl, rfl, ?_, by simp⟩
    rw [length_flatten_of_decChunk h, decLength]
    omega
  · rw [runDecodeString_of_err hT hbefore hS]
    exact ⟨rfl, rfl, rfl, respond_err_holds e _, by simp⟩

/-- A chunk decodes exactly when it is not one symbol and every symbol is in the table (rules R92, R93). -/
theorem exists_decChunk_eq_ok_iff {S : List Byte} :
    (∃ B, decChunk S = .ok B) ↔ S.length ≠ 1 ∧ ∀ c ∈ S, decRom c ≠ none := by
  have hscan : (∃ g, lookupAll S = some g) ↔ ∀ c ∈ S, decRom c ≠ none := by
    simpa [Option.ne_none_iff_exists'] using lookupAll_eq_none (S := S).not
  simp [decChunk_eq_ok_iff, ← hscan]

/-- A one-symbol chunk can only be the tail (rule R114). -/
theorem forall_chunk_length_ne_one_iff (T : List Byte) : (∀ S ∈ chunksOf 8 T, S.length ≠ 1) ↔ T.length % 8 ≠ 1 := by
  induction T using chunk_induction (n := 8) (by decide) with
  | nil => simp
  | short S h1 h8 =>
    rw [chunksOf_of_length_le (by decide) h1 h8, List.forall_mem_singleton]
    omega
  | full S T hS ih =>
    rw [chunksOf_append (by decide) hS, List.forall_mem_cons, ih, List.length_append, hS, Nat.add_mod_left]
    simp

/-- All chunks of a string decode exactly when it is of valid characters and leaves no one-symbol tail. -/
theorem forall_chunk_decodes_iff (T : List Byte) :
    (∀ S ∈ chunksOf 8 T, ∃ B, decChunk S = .ok B) ↔ (∀ c ∈ T, decRom c ≠ none) ∧ T.length % 8 ≠ 1 := by
  have hvalid : (∀ S ∈ chunksOf 8 T, ∀ c ∈ S, decRom c ≠ none) ↔ ∀ c ∈ T, decRom c ≠ none := by
    rw [← List.forall_mem_flatten, flatten_chunksOf (by decide)]
  simp only [exists_decChunk_eq_ok_iff, forall_and, hvalid, forall_chunk_length_ne_one_iff]
  exact and_comm

/-- Settles O57: the run is done exactly when all chunks decode. -/
theorem decodableStrings : Obligations.DecodableStrings := by
  intro T s
  have hwf : ∀ i ∈ (chunksOf 8 T).map decRequest, i.WellFormed :=
    List.forall_mem_map.mpr fun S hS => (decRequest_of_mem_chunksOf hS).1
  rw [wholeResult_ok_iff, runDecodeString, driveRequests_done_iff hwf, ← forall_chunk_decodes_iff, List.forall_mem_map]
  exact forall₂_congr fun S hS => by rw [(decRequest_of_mem_chunksOf hS).2]

/-- Settles O56: the chunks before the leftover symbol are full and decode, and its own is malformed. -/
theorem leftoverSymbolIsMalformed : Obligations.LeftoverSymbolIsMalformed := by
  intro T s hmod hvalid
  obtain rfl | ⟨xs, x, rfl⟩ := T.eq_nil_or_concat'
  · cases hmod
  rw [List.length_append, List.length_singleton] at hmod
  rw [List.length_append, List.length_singleton, Nat.add_sub_cancel, List.take_left] at hvalid
  have hchunks : chunksOf 8 (xs ++ [x]) = chunksOf 8 xs ++ [x] :: [] := by
    rw [chunksOf_append_of_dvd (by decide) (by omega),
      chunksOf_of_length_le (c := [x]) (by decide) le_rfl (by simp)]
  choose! bytes hbytes using (forall_chunk_decodes_iff xs).mpr ⟨hvalid, by omega⟩
  have hbefore : (chunksOf 8 xs).map decChunk = ((chunksOf 8 xs).map bytes).map Result.ok := by
    simpa using hbytes
  have hmalformed : decChunk [x] = .err .malformedChunk := rfl
  rw [runDecodeString_of_err hchunks hbefore hmalformed]
  refine ⟨rfl, ?_⟩
  rw [length_flatten_of_decChunk hbefore, decLength, List.length_append, List.length_singleton]
  omega

end Sys2Proof.Machine

/-! `ISVALID` (rule R117). -/

namespace Sys2Proof.Machine

theorem exists_requestResult_valRequest_eq_ok_iff {c : Byte} :
    (∃ items, requestResult (valRequest c) = .ok items) ↔ decRom c ≠ none := by
  simp [valRequest, requestResult, valResult_payloadOf_eq_ok_iff, Option.ne_none_iff_exists']

theorem eq_invalidCharacter_of_requestResult_valRequest {c : Byte} {e : ErrKind}
    (h : requestResult (valRequest c) = .err e) : e = .invalidCharacter := by
  refine (requestResult_err_of_legalLen (i := valRequest c) rfl h).resolve_right ?_
  rintro ⟨_, _, hsym, _⟩
  cases hsym

/-- Settles O59: the run is done exactly when every `VAL` succeeds, and a `VAL` fails in one way only. -/
theorem isValidIsMembership : Obligations.IsValidIsMembership := by
  intro T s
  have hwf : ∀ i ∈ T.map valRequest, i.WellFormed :=
    List.forall_mem_map.mpr fun c _ => (by decide : 1 < 16)
  have hdone : (runIsValid T s).ending = .done ↔ ∀ c ∈ T, decRom c ≠ none := by
    simp only [runIsValid, driveRequests_done_iff hwf, List.forall_mem_map, exists_requestResult_valRequest_eq_ok_iff]
  refine ⟨by rw [isValidAnswer, beq_iff_eq, hdone], fun ⟨c, hc, hnone⟩ => ?_⟩
  obtain ⟨hall, _⟩ | ⟨i, hi, e, herr, hfailed⟩ := driveRequests_ending_cases hwf s []
  · exact absurd hnone (hdone.mp hall c hc)
  · obtain ⟨d, _, rfl⟩ := List.mem_map.mp hi
    rw [runIsValid, hfailed, eq_invalidCharacter_of_requestResult_valRequest herr]

end Sys2Proof.Machine

/-! The raisers of each error (rules R125 to R128, R130, R133): what each operation fails with, and when. -/

namespace Sys2Proof.Machine

open Sys2Proof.Safety

section
variable {len : Nat} {data : Payload} {e : ErrKind}

/-- `ENC` fails in one way only. -/
theorem encResult_eq_err_iff : encResult len data = .err e ↔ e = .badRequest ∧ 6 ≤ len := by
  obtain ⟨hlen, h⟩ | ⟨rfl, h⟩ | ⟨_, hlen, h⟩ := encResult_cases len data
  · simp [h, hlen, eq_comm]
  · simp [h]
  · simp [h, Nat.lt_succ_of_le hlen]

/-- The failures of `DEC`, each on lengths of its own. -/
theorem decResult_eq_err_iff : decResult len data = .err e ↔
    (e = .badRequest ∧ 9 ≤ len) ∨ (e = .malformedChunk ∧ len = 1) ∨
      (e = .invalidCharacter ∧ 2 ≤ len ∧ len ≤ 8 ∧ ∃ k, k < len ∧ decRom (lane data k) = none) := by
  have hscan : (∃ k, k < len ∧ decRom (lane data k) = none) ↔ lookupAll (lanes data len) = none := by
    simp [lookupAll_eq_none, lanes]
  rw [hscan]
  obtain ⟨hlen, h⟩ | ⟨rfl, h⟩ | ⟨rfl, h⟩ | ⟨h2, h8, hnone, h⟩ | ⟨h2, h8, g, hg, h⟩ := decResult_cases len data
  · have h1 : len ≠ 1 := by omega
    have h8 : ¬ len ≤ 8 := by omega
    simp [h, hlen, h1, h8, eq_comm]
  · simp [h]
  · simp [h, eq_comm]
  · have h1 : len ≠ 1 := by omega
    have h9 : ¬ 9 ≤ len := by omega
    simp [h, hnone, h1, h2, h8, h9, eq_comm]
  · have h1 : len ≠ 1 := by omega
    have h9 : ¬ 9 ≤ len := by omega
    simp [h, hg, h1, h9]

/-- `SYM` fails in one way only, for either of two reasons. -/
theorem symResult_eq_err_iff :
    symResult len data = .err e ↔ e = .badRequest ∧ (len ≠ 1 ∨ 32 ≤ (lane data 0).toNat) := by
  obtain ⟨hne, h⟩ | ⟨rfl, h32, h⟩ | ⟨rfl, h32, h⟩ := symResult_cases len data
  · simp [h, hne, eq_comm]
  · simp [h, h32, eq_comm]
  · simp [h, h32]

theorem valResult_eq_err_iff : valResult len data = .err e ↔
    (e = .badRequest ∧ len ≠ 1) ∨ (e = .invalidCharacter ∧ len = 1 ∧ decRom (lane data 0) = none) := by
  obtain ⟨hne, h⟩ | ⟨rfl, hnone, h⟩ | ⟨rfl, v, hv, h⟩ := valResult_cases len data
  · simp [h, hne, eq_comm]
  · simp [h, hnone, eq_comm]
  · simp [h, hv]

end

/-- Rule R126, of the result. -/
theorem requestResult_eq_invalidCharacter_iff {i : Instr} :
    requestResult i = .err .invalidCharacter ↔
      (∃ len data, i = .dec len data ∧ 2 ≤ len ∧ len ≤ 8 ∧ ∃ k, k < len ∧ decRom (lane data k) = none) ∨
        ∃ data, i = .val 1 data ∧ decRom (lane data 0) = none := by
  cases i with
  | enc len data => simp [requestResult, encResult_eq_err_iff]
  | dec len data => simp [requestResult, decResult_eq_err_iff]
  | sym len data => simp [requestResult, symResult_eq_err_iff]
  | val len data => simp [requestResult, valResult_eq_err_iff]

/-- Settles O44: the status is the result's; `=` reads as zero. -/
theorem invalidCharacterRaisers : Obligations.InvalidCharacterRaisers :=
  ⟨fun i s => ⟨_, exec_eq_respond i s, respond_status_eq_errCode.trans requestResult_eq_invalidCharacter_iff⟩,
    by decide⟩

/-- Settles O46: the status is the result's, and each operation has its own bad requests. -/
theorem badRequestRaisers : Obligations.BadRequestRaisers := by
  refine fun i s => ⟨_, exec_eq_respond i s, respond_status_eq_errCode.trans ?_⟩
  cases i with
  | enc len data => simp [requestResult, encResult_eq_err_iff]
  | dec len data => simp [requestResult, decResult_eq_err_iff]
  | sym len data => simp [requestResult, symResult_eq_err_iff]
  | val len data => simp [requestResult, valResult_eq_err_iff]

/-- Settles O49: the response to `j` shows the same on every state, so also on the one an error left. -/
theorem errorsLeaveNothingBehind : Obligations.ErrorsLeaveNothingBehind := fun _ j _ t s' _ _ =>
  ⟨_, _, exec_eq_respond j t, exec_eq_respond j s', respond_sameResponse (requestResult j) t s'⟩

/-- A result that can only fail as a bad request is answered with status 0 or 3. -/
theorem respond_status_of_only_badRequest {r : Result} (h : ∀ e, r = .err e → e = .badRequest) (s : State) :
    (respond r s).status = 0 ∨ (respond r s).status = 3 := by
  cases r with
  | ok items => exact .inl rfl
  | err e =>
    obtain rfl := h e rfl
    exact .inr rfl

/-- `VAL` is never malformed (rule R127), so its status is never 2. -/
theorem respond_val_status_ne (len : Nat) (data : Payload) (s : State) :
    (respond (requestResult (.val len data)) s).status ≠ errCode .malformedChunk := by
  simp [requestResult_eq_malformed_iff]

/-- Settles O43: `ENC` and `SYM` fail with a bad request alone, and `VAL` is never malformed. -/
theorem statusCodesPerOperation : Obligations.StatusCodesPerOperation :=
  ⟨⟨rfl, rfl, rfl, rfl⟩, fun len data s =>
    ⟨_, _, _, _, exec_eq_respond _ s, exec_eq_respond _ s, exec_eq_respond _ s, exec_eq_respond _ s,
      respond_status_of_only_badRequest (fun _ h => (encResult_eq_err_iff.mp h).1) s,
      respond_status_of_only_badRequest (fun _ h => (symResult_eq_err_iff.mp h).1) s,
      respond_val_status_ne len data s⟩⟩

/-- Settles O48: `exec` writes the response of the result, here an error. -/
theorem errorEntryWritesStatusAndNoLanes : Obligations.ErrorEntryWritesStatusAndNoLanes := fun i s e h =>
  ⟨_, exec_eq_respond i s, h ▸ respond_err_holds e s⟩

end Sys2Proof.Machine

/-! One step by what stands on the ports (rules R145, R146): reset, a request, or nothing. -/

namespace Sys2Proof.Machine

open Sys2Proof.Safety

theorem nextEvent_of_pins_nil {s : State} (h : s.pins = []) : nextEvent s = (.idle, s) := by
  simp only [nextEvent, h]

theorem nextEvent_of_pins_cons {s : State} {p : Pins} {rest : List Pins} (h : s.pins = p :: rest) :
    nextEvent s = (pinsEvent p, { s with pins := rest }) := by
  simp only [nextEvent, h]

/-- With nothing on the ports the block is idle. -/
theorem step_of_pins_nil {s : State} (h : s.pins = []) : step s = .next s := by
  rw [step, nextEvent_of_pins_nil h]

section
variable {s : State} {q : ReqWord} {rest : List Pins}

/-- Reset beats a request: the `req_valid` and `req` pins are not read (rule R145). -/
theorem step_of_reset {present : Bool} (h : s.pins = ⟨true, present, q⟩ :: rest) :
    step s = .next (resetBlock { s with pins := rest }) := by
  rw [step, nextEvent_of_pins_cons h]
  rfl

theorem step_of_request (h : s.pins = ⟨false, true, q⟩ :: rest) :
    step s = exec (decodeReq q) { s with pins := rest } := by
  rw [step, nextEvent_of_pins_cons h]
  rfl

/-- With neither reset nor `req_valid` high, the `req` pins are not read. -/
theorem step_of_idle (h : s.pins = ⟨false, false, q⟩ :: rest) : step s = .next { s with pins := rest } := by
  rw [step, nextEvent_of_pins_cons h]
  rfl

end

/-- A step on a word the host places decodes that word in the place of the next entry on the ports (log entry 11). -/
theorem step_withFetchWord (s : State) (nbits w : Nat) :
    step (s.withFetchWord nbits w) =
      exec (decodeReq (BitVec.ofNat 70 (w % 2 ^ nbits))) { s with pins := s.pins.tail } :=
  step_of_request (withFetchWord_pins s nbits w)

/-- A table word without a bit above the 70 is read as a request word (rule R45, log entry 10). -/
theorem decodeTableWord_of_lt {nbits w : Nat} (h : w % 2 ^ nbits < 2 ^ 70) :
    decodeTableWord nbits w = some (decodeReq (BitVec.ofNat 70 (w % 2 ^ nbits))) :=
  if_pos h

/-- Settles O7: a request on the ports is decoded and run, and the table reads a placed word as the step does. -/
theorem stepRunsThePresentedRequest : Obligations.StepRunsThePresentedRequest :=
  ⟨fun _ _ _ => step_of_request, fun s w hw =>
    ⟨_, decodeTableWord_of_lt (Nat.lt_of_le_of_lt (Nat.mod_le w (2 ^ 72)) hw), decodeReq_wellFormed _,
      step_withFetchWord s 72 w⟩⟩

/-- Settles O8, by the two ways to be idle: no entry for the ports, and an entry with both pins low. -/
theorem idleStepChangesNothing : Obligations.IdleStepChangesNothing :=
  ⟨fun _ => step_of_pins_nil, fun _ _ _ => step_of_idle⟩

/-- Settles O9: the step is `resetBlock`, whatever the request pins hold, and the response to an instruction shows the
same on every state. -/
theorem resetBeatsARequest : Obligations.ResetBeatsARequest := fun s _ _ rest h =>
  ⟨resetBlock { s with pins := rest }, step_of_reset h, resetBlock_rvalid _, resetBlock_pins _, fun i s' =>
    ⟨_, _, exec_eq_respond i _, exec_eq_respond i s', respond_sameResponse (requestResult i) _ s'⟩⟩

end Sys2Proof.Machine
